-- ==== Sys2Proof/Word.lean ====
section
/-! DEFINITION. The widths of the machine's quantities (spec/00_scope.md R8, spec/30_encoding.md R71): all unsigned. -/

namespace Sys2Proof

/-- A 4-bit field: a register index `X` or `Y`, or a sprite height `N` (R71). -/
abbrev Nibble := BitVec 4

/-- The addressable unit, a general register, a timer, an immediate `NN` (R20, R50, R71). -/
abbrev Byte := BitVec 8

/-- The address field `NNN` (R71). -/
abbrev Addr12 := BitVec 12

/-- An instruction word; also the width of `I`, `PC` and a stack entry (R22, R23, R24, R70). -/
abbrev Word := BitVec 16

end Sys2Proof
end

