-- ==== Sys2Proof/Syntax.lean ====
section
/-! DEFINITION. The instructions: one constructor per row of spec/opcode_table.json (spec/30_encoding.md R76). -/

namespace Sys2Proof

/-- One constructor per row of the opcode map R76, in the map's order, with the fields of the row's format (R72).
SYS carries its ignored `NNN` as R81 does; that SHR and SHL carry their ignored `Y`, which R81 leaves out, is the model's
choice (log entry 11). -/
inductive Instr where
  /-- `0NNN`, except 0x00E0 and 0x00EE (R100). -/
  | sys (nnn : Addr12)
  /-- `00E0` (R150). -/
  | cls
  /-- `00EE` (R101). -/
  | ret
  /-- `1NNN` (R102). -/
  | jp (nnn : Addr12)
  /-- `2NNN` (R103). -/
  | call (nnn : Addr12)
  /-- `3XNN` (R104). -/
  | seImm (x : Nibble) (nn : Byte)
  /-- `4XNN` (R105). -/
  | sneImm (x : Nibble) (nn : Byte)
  /-- `5XY0` (R106). -/
  | seReg (x y : Nibble)
  /-- `6XNN` (R120). -/
  | ldImm (x : Nibble) (nn : Byte)
  /-- `7XNN` (R121). -/
  | addImm (x : Nibble) (nn : Byte)
  /-- `8XY0` (R122). -/
  | ldReg (x y : Nibble)
  /-- `8XY1` (R123). -/
  | orReg (x y : Nibble)
  /-- `8XY2` (R124). -/
  | andReg (x y : Nibble)
  /-- `8XY3` (R125). -/
  | xorReg (x y : Nibble)
  /-- `8XY4` (R126). -/
  | addReg (x y : Nibble)
  /-- `8XY5` (R127). -/
  | sub (x y : Nibble)
  /-- `8XY6` (R128). -/
  | shr (x y : Nibble)
  /-- `8XY7` (R129). -/
  | subn (x y : Nibble)
  /-- `8XYE` (R130). -/
  | shl (x y : Nibble)
  /-- `9XY0` (R107). -/
  | sneReg (x y : Nibble)
  /-- `ANNN` (R140). -/
  | ldI (nnn : Addr12)
  /-- `BNNN` (R108). -/
  | jpV0 (nnn : Addr12)
  /-- `CXNN` (R131). -/
  | rnd (x : Nibble) (nn : Byte)
  /-- `DXYN` (R151). -/
  | drw (x y n : Nibble)
  /-- `EX9E` (R160). -/
  | skp (x : Nibble)
  /-- `EXA1` (R161). -/
  | sknp (x : Nibble)
  /-- `FX07` (R163). -/
  | ldVxDt (x : Nibble)
  /-- `FX0A` (R162). -/
  | ldVxK (x : Nibble)
  /-- `FX15` (R164). -/
  | ldDtVx (x : Nibble)
  /-- `FX18` (R165). -/
  | ldStVx (x : Nibble)
  /-- `FX1E` (R141). -/
  | addI (x : Nibble)
  /-- `FX29` (R142). -/
  | ldF (x : Nibble)
  /-- `FX33` (R143). -/
  | ldB (x : Nibble)
  /-- `FX55` (R144). -/
  | ldMemVx (x : Nibble)
  /-- `FX65` (R145). -/
  | ldVxMem (x : Nibble)
  deriving DecidableEq, Repr

/-- The name of an instruction's row in spec/opcode_table.json and in R76's "id" column. -/
def Instr.mnemonic : Instr → String
  | .sys _ => "SYS"
  | .cls => "CLS"
  | .ret => "RET"
  | .jp _ => "JP"
  | .call _ => "CALL"
  | .seImm _ _ => "SE_imm"
  | .sneImm _ _ => "SNE_imm"
  | .seReg _ _ => "SE_reg"
  | .ldImm _ _ => "LD_imm"
  | .addImm _ _ => "ADD_imm"
  | .ldReg _ _ => "LD_reg"
  | .orReg _ _ => "OR"
  | .andReg _ _ => "AND"
  | .xorReg _ _ => "XOR"
  | .addReg _ _ => "ADD_reg"
  | .sub _ _ => "SUB"
  | .shr _ _ => "SHR"
  | .subn _ _ => "SUBN"
  | .shl _ _ => "SHL"
  | .sneReg _ _ => "SNE_reg"
  | .ldI _ => "LD_I"
  | .jpV0 _ => "JP_V0"
  | .rnd _ _ => "RND"
  | .drw _ _ _ => "DRW"
  | .skp _ => "SKP"
  | .sknp _ => "SKNP"
  | .ldVxDt _ => "LD_VX_DT"
  | .ldVxK _ => "LD_VX_K"
  | .ldDtVx _ => "LD_DT_VX"
  | .ldStVx _ => "LD_ST_VX"
  | .addI _ => "ADD_I"
  | .ldF _ => "LD_F"
  | .ldB _ => "LD_B"
  | .ldMemVx _ => "LD_MEM_VX"
  | .ldVxMem _ => "LD_VX_MEM"

end Sys2Proof
end

