-- ==== Sys2Proof/WellFormed.lean ====
section
/-! DEFINITION. Which terms of `Instr` stand for an instruction word of their own row. -/

namespace Sys2Proof

/-- The field widths of R71 are in the types, so one check is left: the words 0x00E0 and 0x00EE of family 0x0 are CLS and
RET and not SYS (R76 row 1, R78). -/
abbrev Instr.WellFormed : Instr → Prop
  | .sys nnn => nnn ≠ 0x0E0#12 ∧ nnn ≠ 0x0EE#12
  | _ => True

end Sys2Proof
end

