-- ==== Sys2Proof/Decode.lean ====
section
/-! DEFINITION. The opcode map, the decoder and the encoder (spec/30_encoding.md R70 to R81). -/

namespace Sys2Proof

/-! ### The fields of an instruction word (R71) -/

/-- `T` = `op[15:12]`, the family. -/
def opT (op : Word) : Nibble := op.extractLsb' 12 4

/-- `X` = `op[11:8]`. -/
def opX (op : Word) : Nibble := op.extractLsb' 8 4

/-- `Y` = `op[7:4]`. -/
def opY (op : Word) : Nibble := op.extractLsb' 4 4

/-- `N` = `op[3:0]`. -/
def opN (op : Word) : Nibble := op.extractLsb' 0 4

/-- `NN` = `op[7:0]`. -/
def opNN (op : Word) : Byte := op.extractLsb' 0 8

/-- `NNN` = `op[11:0]`. -/
def opNNN (op : Word) : Addr12 := op.extractLsb' 0 12

/-! ### The opcode map as a table (R76) -/

/-- A row of R76: a word selects it when `op and mask = pattern` and the word is none of the row's exceptions. -/
structure OpcodeRow where
  mnemonic : String
  mask : Word
  pattern : Word
  except : List Word
  deriving DecidableEq, Repr

/-- R77: all fixed bits of the row match. -/
abbrev OpcodeRow.Selects (r : OpcodeRow) (op : Word) : Prop := op &&& r.mask = r.pattern ∧ op ∉ r.except

/-- Rows 1 to 8 of R76. -/
def opcodeMapLow : List OpcodeRow := [
  ⟨"SYS", 0xF000#16, 0x0000#16, [0x00E0#16, 0x00EE#16]⟩,
  ⟨"CLS", 0xFFFF#16, 0x00E0#16, []⟩,
  ⟨"RET", 0xFFFF#16, 0x00EE#16, []⟩,
  ⟨"JP", 0xF000#16, 0x1000#16, []⟩,
  ⟨"CALL", 0xF000#16, 0x2000#16, []⟩,
  ⟨"SE_imm", 0xF000#16, 0x3000#16, []⟩,
  ⟨"SNE_imm", 0xF000#16, 0x4000#16, []⟩,
  ⟨"SE_reg", 0xF00F#16, 0x5000#16, []⟩]

/-- Rows 9 to 19 of R76. -/
def opcodeMapAlu : List OpcodeRow := [
  ⟨"LD_imm", 0xF000#16, 0x6000#16, []⟩,
  ⟨"ADD_imm", 0xF000#16, 0x7000#16, []⟩,
  ⟨"LD_reg", 0xF00F#16, 0x8000#16, []⟩,
  ⟨"OR", 0xF00F#16, 0x8001#16, []⟩,
  ⟨"AND", 0xF00F#16, 0x8002#16, []⟩,
  ⟨"XOR", 0xF00F#16, 0x8003#16, []⟩,
  ⟨"ADD_reg", 0xF00F#16, 0x8004#16, []⟩,
  ⟨"SUB", 0xF00F#16, 0x8005#16, []⟩,
  ⟨"SHR", 0xF00F#16, 0x8006#16, []⟩,
  ⟨"SUBN", 0xF00F#16, 0x8007#16, []⟩,
  ⟨"SHL", 0xF00F#16, 0x800E#16, []⟩]

/-- Rows 20 to 35 of R76. -/
def opcodeMapHigh : List OpcodeRow := [
  ⟨"SNE_reg", 0xF00F#16, 0x9000#16, []⟩,
  ⟨"LD_I", 0xF000#16, 0xA000#16, []⟩,
  ⟨"JP_V0", 0xF000#16, 0xB000#16, []⟩,
  ⟨"RND", 0xF000#16, 0xC000#16, []⟩,
  ⟨"DRW", 0xF000#16, 0xD000#16, []⟩,
  ⟨"SKP", 0xF0FF#16, 0xE09E#16, []⟩,
  ⟨"SKNP", 0xF0FF#16, 0xE0A1#16, []⟩,
  ⟨"LD_VX_DT", 0xF0FF#16, 0xF007#16, []⟩,
  ⟨"LD_VX_K", 0xF0FF#16, 0xF00A#16, []⟩,
  ⟨"LD_DT_VX", 0xF0FF#16, 0xF015#16, []⟩,
  ⟨"LD_ST_VX", 0xF0FF#16, 0xF018#16, []⟩,
  ⟨"ADD_I", 0xF0FF#16, 0xF01E#16, []⟩,
  ⟨"LD_F", 0xF0FF#16, 0xF029#16, []⟩,
  ⟨"LD_B", 0xF0FF#16, 0xF033#16, []⟩,
  ⟨"LD_MEM_VX", 0xF0FF#16, 0xF055#16, []⟩,
  ⟨"LD_VX_MEM", 0xF0FF#16, 0xF065#16, []⟩]

/-- The complete opcode map R76. -/
def opcodeMap : List OpcodeRow := opcodeMapLow ++ opcodeMapAlu ++ opcodeMapHigh

/-! ### The decoder (R74, R75, R77, R81) -/

/-- Why bytes are no instruction. -/
inductive DecodeError where
  /-- The word matches no row of R76 (R78); Step executes it as a no-op (R95). -/
  | unassigned (op : Word)
  /-- Fewer than the two bytes of an instruction (R70); the fetch never gives fewer (R53). -/
  | truncated
  deriving DecidableEq, Repr

/-- Family 0x0, matched on the whole word. -/
def decode0 (op : Word) : Instr :=
  if op = 0x00E0#16 then .cls else if op = 0x00EE#16 then .ret else .sys (opNNN op)

/-- Family 0x8, on the low nibble. -/
def decode8 (op : Word) : Except DecodeError Instr :=
  match (opN op).toNat with
  | 0x0 => .ok (.ldReg (opX op) (opY op))
  | 0x1 => .ok (.orReg (opX op) (opY op))
  | 0x2 => .ok (.andReg (opX op) (opY op))
  | 0x3 => .ok (.xorReg (opX op) (opY op))
  | 0x4 => .ok (.addReg (opX op) (opY op))
  | 0x5 => .ok (.sub (opX op) (opY op))
  | 0x6 => .ok (.shr (opX op) (opY op))
  | 0x7 => .ok (.subn (opX op) (opY op))
  | 0xE => .ok (.shl (opX op) (opY op))
  | _ => .error (.unassigned op)

/-- Family 0xE, on the low byte. -/
def decodeE (op : Word) : Except DecodeError Instr :=
  if opNN op = 0x9E#8 then .ok (.skp (opX op))
  else if opNN op = 0xA1#8 then .ok (.sknp (opX op))
  else .error (.unassigned op)

/-- Family 0xF, on the low byte. -/
def decodeF (op : Word) : Except DecodeError Instr :=
  if opNN op = 0x07#8 then .ok (.ldVxDt (opX op))
  else if opNN op = 0x0A#8 then .ok (.ldVxK (opX op))
  else if opNN op = 0x15#8 then .ok (.ldDtVx (opX op))
  else if opNN op = 0x18#8 then .ok (.ldStVx (opX op))
  else if opNN op = 0x1E#8 then .ok (.addI (opX op))
  else if opNN op = 0x29#8 then .ok (.ldF (opX op))
  else if opNN op = 0x33#8 then .ok (.ldB (opX op))
  else if opNN op = 0x55#8 then .ok (.ldMemVx (opX op))
  else if opNN op = 0x65#8 then .ok (.ldVxMem (opX op))
  else .error (.unassigned op)

/-- The decoder R81: total on all 65,536 words; a word that selects no row is rejected by name. -/
def decode (op : Word) : Except DecodeError Instr :=
  match (opT op).toNat with
  | 0x0 => .ok (decode0 op)
  | 0x1 => .ok (.jp (opNNN op))
  | 0x2 => .ok (.call (opNNN op))
  | 0x3 => .ok (.seImm (opX op) (opNN op))
  | 0x4 => .ok (.sneImm (opX op) (opNN op))
  | 0x5 => if opN op = 0#4 then .ok (.seReg (opX op) (opY op)) else .error (.unassigned op)
  | 0x6 => .ok (.ldImm (opX op) (opNN op))
  | 0x7 => .ok (.addImm (opX op) (opNN op))
  | 0x8 => decode8 op
  | 0x9 => if opN op = 0#4 then .ok (.sneReg (opX op) (opY op)) else .error (.unassigned op)
  | 0xA => .ok (.ldI (opNNN op))
  | 0xB => .ok (.jpV0 (opNNN op))
  | 0xC => .ok (.rnd (opX op) (opNN op))
  | 0xD => .ok (.drw (opX op) (opY op) (opN op))
  | 0xE => decodeE op
  | _ => decodeF op

/-- The instruction word of two bytes, the byte at the lower address first (R53, R55). -/
def wordOfBytes (hi lo : Byte) : Word := hi ++ lo

/-- The decoder on bytes in memory order, with the bytes left over; every instruction takes exactly two (R70). -/
def decodeBytes : List Byte → Except DecodeError (Instr × List Byte)
  | hi :: lo :: rest => (decode (wordOfBytes hi lo)).map (·, rest)
  | _ => .error .truncated

/-! ### The encoder (R72, R76) -/

/-- Format A: `T` and `NNN`. -/
def formatA (t : Nibble) (nnn : Addr12) : Word := t ++ nnn

/-- Formats XI and XS: `T`, `X` and a low byte, `NN` or the sub-opcode. -/
def formatXI (t x : Nibble) (nn : Byte) : Word := t ++ (x ++ nn : BitVec 12)

/-- Formats XY and XYN: `T`, `X`, `Y` and a low nibble, the sub-opcode or `N`. -/
def formatXY (t x y s : Nibble) : Word := t ++ (x ++ (y ++ s : BitVec 8) : BitVec 12)

/-- The word of a well-formed instruction (R76's patterns). -/
def encode : Instr → Word
  | .sys nnn => formatA 0x0#4 nnn
  | .cls => 0x00E0#16
  | .ret => 0x00EE#16
  | .jp nnn => formatA 0x1#4 nnn
  | .call nnn => formatA 0x2#4 nnn
  | .seImm x nn => formatXI 0x3#4 x nn
  | .sneImm x nn => formatXI 0x4#4 x nn
  | .seReg x y => formatXY 0x5#4 x y 0x0#4
  | .ldImm x nn => formatXI 0x6#4 x nn
  | .addImm x nn => formatXI 0x7#4 x nn
  | .ldReg x y => formatXY 0x8#4 x y 0x0#4
  | .orReg x y => formatXY 0x8#4 x y 0x1#4
  | .andReg x y => formatXY 0x8#4 x y 0x2#4
  | .xorReg x y => formatXY 0x8#4 x y 0x3#4
  | .addReg x y => formatXY 0x8#4 x y 0x4#4
  | .sub x y => formatXY 0x8#4 x y 0x5#4
  | .shr x y => formatXY 0x8#4 x y 0x6#4
  | .subn x y => formatXY 0x8#4 x y 0x7#4
  | .shl x y => formatXY 0x8#4 x y 0xE#4
  | .sneReg x y => formatXY 0x9#4 x y 0x0#4
  | .ldI nnn => formatA 0xA#4 nnn
  | .jpV0 nnn => formatA 0xB#4 nnn
  | .rnd x nn => formatXI 0xC#4 x nn
  | .drw x y n => formatXY 0xD#4 x y n
  | .skp x => formatXI 0xE#4 x 0x9E#8
  | .sknp x => formatXI 0xE#4 x 0xA1#8
  | .ldVxDt x => formatXI 0xF#4 x 0x07#8
  | .ldVxK x => formatXI 0xF#4 x 0x0A#8
  | .ldDtVx x => formatXI 0xF#4 x 0x15#8
  | .ldStVx x => formatXI 0xF#4 x 0x18#8
  | .addI x => formatXI 0xF#4 x 0x1E#8
  | .ldF x => formatXI 0xF#4 x 0x29#8
  | .ldB x => formatXI 0xF#4 x 0x33#8
  | .ldMemVx x => formatXI 0xF#4 x 0x55#8
  | .ldVxMem x => formatXI 0xF#4 x 0x65#8

/-- The bytes of an instruction in memory order (R55). -/
def encodeBytes (i : Instr) : List Byte := [(encode i).extractLsb' 8 8, (encode i).extractLsb' 0 8]

/-! ### The host's question about a table word -/

/-- The two bytes of a table word whose bits above `nbits` are zero, in memory order. -/
def tableWordBytes (nbits w : Nat) : Byte × Byte :=
  (BitVec.ofNat 8 (w % 2 ^ nbits / 256), BitVec.ofNat 8 (w % 2 ^ nbits))

/-- What the decoder reads from a table word laid out in memory. -/
def decodeTableWord (nbits w : Nat) : Option Instr :=
  match decodeBytes [(tableWordBytes nbits w).1, (tableWordBytes nbits w).2] with
  | .ok (i, _) => some i
  | .error _ => none

end Sys2Proof
end

