-- ==== Sys2Proof/Config.lean ====
section
/-! DEFINITION. What is fixed for the machine (spec/00_scope.md R6), and its one free value, the random byte. -/

namespace Sys2Proof.Config

/-- `MEM_SIZE` (R6, R50): addresses are 0x000 to 0xFFF. -/
abbrev memSize : Nat := 4096

/-- The largest address (R50). -/
abbrev maxAddr : Nat := 0xFFF

/-- `ENTRY` (R6, R57): where a program is loaded and where PC stands after Reset. -/
abbrev entry : Nat := 0x200

/-- `ROM_MAX` (R6, R201): 4096 - 0x200. -/
abbrev romMax : Nat := 3584

/-- `STACK_DEPTH` (R6, R24). -/
abbrev stackDepth : Nat := 16

/-- Bytes per glyph in the font address computation (R6, R142). -/
abbrev glyphStride : Nat := 5

/-- The free random byte of the `k`-th draw (R33(a), R96, R131): nothing is known of it, so a theorem about it holds for
every byte the hardware could produce. Log entry 2. -/
opaque randomByte : Nat → Byte

end Sys2Proof.Config
end

