-- ==== Sys2Proof/Machine/State.lean ====
section
/-! DEFINITION. The machine's state as plain data, why a step can stop, and the state after Reset (spec/10_state.md). -/

namespace Sys2Proof.Machine

/-- Why a step can stop with a fault. The spec's own errors are no faults here: raising one is a next state with HALT set
(spec/40_step_cycle.md R92, log entry 4). -/
inductive Fault where
  /-- Raised by the Step transaction when PC is above 0xFFF, where there is no byte to fetch. The spec says PC never holds
  such a value (R22, R53). SAFE: only a state outside the invariant `Inv` can raise it. Log entry 5. -/
  | fetchOutsideMemory
  deriving DecidableEq, Repr

/-- Why a transaction or a step is given no meaning. -/
inductive Refusal where
  /-- Raised by an arm of `exec` whose instruction has no meaning yet; no arm uses it. SAFE: it stops. -/
  | notModelled (mnemonic : String)
  /-- Raised by every transaction but Reset before the first Reset, when there is no state
  (spec/10_state.md R35, D25). SAFE: it stops. -/
  | beforeFirstReset
  deriving DecidableEq, Repr

/-- The three fatal run-time errors (spec/60_exceptions.md R170): the kind only, no payload (R31). -/
inductive ExecError where
  | stackOverflow
  | stackUnderflow
  | outOfBoundsAddress
  deriving DecidableEq, Repr

/-- `MEM` (R28, R50): the bytes that differ from what an unlisted address reads as, addresses strictly rising. -/
abbrev Memory := List Host.Cell

/-- `FB` (R27): column `x` outside, row `y` inside, as in `FB[x][y]`; `true` is on. Log entry 15. -/
abbrev Framebuffer := Vector (Vector Bool 32) 64

/-- The whole state of the core (spec/10_state.md), and the model's own counter of random draws. -/
structure State where
  /-- `V[0..15]` (R20); `V[15]` is VF (R21). -/
  v : Vector Byte 16
  /-- `I` (R23): at most 0xFFF. -/
  i : Word
  /-- `PC` (R22): at most 0xFFF. -/
  pc : Word
  /-- `SP` (R24): the number of live stack entries. -/
  sp : Fin 17
  /-- `STACK[0..15]` (R24): entry 0 is the oldest, `STACK[SP-1]` the last pushed. -/
  stack : Vector Word 16
  /-- `DT` (R25). -/
  dt : Byte
  /-- `ST` (R25). -/
  st : Byte
  /-- `KEY[0..15]` (R26): `true` is pressed. -/
  key : Vector Bool 16
  /-- `FB[0..63][0..31]` (R27). -/
  fb : Framebuffer
  /-- `MEM[0..4095]` (R28). -/
  mem : Memory
  /-- `WAIT` (R30): awaiting a key. -/
  wait : Bool
  /-- `WAITREG` (R30): meaningful while `WAIT = 1`. -/
  waitReg : Nibble
  /-- `HALT` (R31): halted by a fatal error. -/
  halt : Bool
  /-- `ERR` (R31): meaningful while `HALT = 1`. -/
  err : ExecError
  /-- `DIAG` (R32): an unassigned encoding has been executed since Reset. -/
  diag : Bool
  /-- THE MODEL'S OWN FIELD: how many random bytes have been drawn. Log entry 2. -/
  draws : Nat
  deriving DecidableEq, Repr

/-- The state right after Reset (R35, R200). `err` and `draws` are the model's choices (log entries 1 and 2); every other
value is the spec's. Nothing is listed in memory, so every byte reads 0. -/
def State.reset : State where
  v := .replicate 16 0#8
  i := 0#16
  pc := 0x200#16
  sp := 0
  stack := .replicate 16 0#16
  dt := 0#8
  st := 0#8
  key := .replicate 16 false
  fb := .replicate 64 (.replicate 32 false)
  mem := []
  wait := false
  waitReg := 0#4
  halt := false
  err := .stackOverflow
  diag := false
  draws := 0

end Sys2Proof.Machine
end

