-- ==== Sys2Proof/Machine/Ops.lean ====
section
/-! DEFINITION. The named operations over memory, registers, stack and status that every meaning is written with. -/

namespace Sys2Proof.Machine

/-- The outcome of a meaning and of a step. -/
abbrev Result := Host.Outcome State Fault Refusal

/-! ### Memory (spec/20_memory.md) -/

/-- What an address that the list does not name reads as: Reset zeroes every byte (spec/10_state.md R28). -/
def Memory.unlisted : Byte := 0#8

/-- The byte at an address. -/
def Memory.read : Memory → Nat → Byte
  | [], _ => Memory.unlisted
  | (k, c) :: m, a => if k = a then c else Memory.read m a

/-- Take an address off the list, so that it reads as an unlisted one. -/
def Memory.erase (m : Memory) (a : Nat) : Memory := m.filter (fun c => c.1 ≠ a)

/-- List a byte at its place in the order of addresses. -/
def Memory.insert : Memory → Nat → Byte → Memory
  | [], a, b => [(a, b)]
  | (k, c) :: m, a, b =>
    if a < k then (a, b) :: (k, c) :: m
    else if a = k then (a, b) :: m
    else (k, c) :: Memory.insert m a b

/-- Store a byte, keeping the canonical form. -/
def Memory.write (m : Memory) (a : Nat) (b : Byte) : Memory :=
  if b = Memory.unlisted then Memory.erase m a else Memory.insert m a b

/-- Copy bytes to consecutive addresses from `a`. -/
def Memory.copyIn (m : Memory) : Nat → List Byte → Memory
  | _, [] => m
  | a, b :: bs => Memory.copyIn (m.write a b) (a + 1) bs

/-- The canonical form: addresses strictly rising, no listed byte equal to what an unlisted address reads as. -/
abbrev Memory.wf (m : Memory) : Prop :=
  m.Pairwise (fun c d => c.1 < d.1) ∧ ∀ c ∈ m, c.2 ≠ Memory.unlisted

/-- Only addresses that exist are listed (R50). -/
abbrev Memory.inRange (m : Memory) : Prop := ∀ c ∈ m, c.1 ≤ Config.maxAddr

/-! ### One update per piece of state (lemmas: Sys2Proof/Laws/State.lean) -/

/-- `V[x] <- b`. -/
def State.setReg (s : State) (x : Nibble) (b : Byte) : State := { s with v := s.v.set x.toNat b x.isLt }

/-- Replace the register file. -/
def State.setRegs (s : State) (v : Vector Byte 16) : State := { s with v := v }

/-- `I <- w`. -/
def State.setI (s : State) (w : Word) : State := { s with i := w }

/-- `PC <- w`. -/
def State.setPc (s : State) (w : Word) : State := { s with pc := w }

/-- Replace the call stack. -/
def State.setStack (s : State) (sp : Fin 17) (stack : Vector Word 16) : State := { s with sp := sp, stack := stack }

/-- `DT <- b`. -/
def State.setDt (s : State) (b : Byte) : State := { s with dt := b }

/-- `ST <- b`. -/
def State.setSt (s : State) (b : Byte) : State := { s with st := b }

/-- Replace the key state. -/
def State.setKeys (s : State) (key : Vector Bool 16) : State := { s with key := key }

/-- Replace the framebuffer. -/
def State.setFb (s : State) (fb : Framebuffer) : State := { s with fb := fb }

/-- Replace memory. -/
def State.setMem (s : State) (m : Memory) : State := { s with mem := m }

/-- `WAIT <- w; WAITREG <- x`. -/
def State.setWait (s : State) (w : Bool) (x : Nibble) : State := { s with wait := w, waitReg := x }

/-- `HALT <- h; ERR <- e`. -/
def State.setHalt (s : State) (h : Bool) (e : ExecError) : State := { s with halt := h, err := e }

/-- `DIAG <- d`. -/
def State.setDiag (s : State) (d : Bool) : State := { s with diag := d }

/-- Set the number of random draws made (the model's own field, log entry 2). -/
def State.setDraws (s : State) (n : Nat) : State := { s with draws := n }

/-! ### Reading registers -/

/-- `V[x]` (spec/10_state.md R20). -/
def State.reg (s : State) (x : Nibble) : Byte := s.v[x.toNat]'x.isLt

/-- The index of VF (R21). -/
abbrev vf : Nibble := 0xF#4

/-- V0 to VX in ascending order (spec/43_index_memory.md R144). -/
def State.regsUpTo (s : State) (x : Nibble) : List Byte := s.v.toList.take (x.toNat + 1)

/-- `V[k], V[k+1], ... <- bytes` in ascending order; there is no register above VF (R145). -/
def loadRegs : Nat → List Byte → Vector Byte 16 → Vector Byte 16
  | _, [], v => v
  | k, b :: bs, v => loadRegs (k + 1) bs (v.setIfInBounds k b)

/-! ### Address arithmetic -/

/-- `n mod 4096` in a 16-bit register whose upper four bits are 0 (R22, R23). -/
def wrap12 (n : Nat) : Word := BitVec.ofNat 16 (n % Config.memSize)

/-- An address field in a 16-bit register (spec/30_encoding.md R73). -/
def addrWord (nnn : Addr12) : Word := nnn.zeroExtend 16

/-- `PC <- (PC + 2) mod 4096`: the advance of a Step and the further advance of a taken skip (spec/40_step_cycle.md R91). -/
def State.advancePc (s : State) : State := s.setPc (wrap12 (s.pc.toNat + 2))

/-! ### Memory accesses with their bounds (R51, R52, R54) -/

/-- `MemRead(addr, 1)` (R51). -/
def State.memRead (s : State) (a : Nat) : Except ExecError Byte :=
  if a ≤ Config.maxAddr then .ok (s.mem.read a) else .error .outOfBoundsAddress

/-- `MemWrite(addr, 1, v)` (R52). -/
def State.memWrite (s : State) (a : Nat) (b : Byte) : Except ExecError State :=
  if a ≤ Config.maxAddr then .ok (s.setMem (s.mem.write a b)) else .error .outOfBoundsAddress

/-- `n` consecutive bytes from `a`, ascending; an error if any of them is out of bounds (R54). -/
def State.readBytes (s : State) : Nat → Nat → Except ExecError (List Byte)
  | _, 0 => .ok []
  | a, n + 1 =>
    match s.memRead a with
    | .error e => .error e
    | .ok b =>
      match s.readBytes (a + 1) n with
      | .error e => .error e
      | .ok bs => .ok (b :: bs)

/-- Store consecutive bytes from `a`, ascending. All or nothing: where one address is out of bounds there is no new state, so
nothing has been written (R54: "before it writes anything"; log entry 19). -/
def State.writeBytes (s : State) : Nat → List Byte → Except ExecError State
  | _, [] => .ok s
  | a, b :: bs =>
    match s.memWrite a b with
    | .error e => .error e
    | .ok s' => s'.writeBytes (a + 1) bs

/-- Instruction fetch (R53): two byte reads, the high byte first, the second address modulo 4096. -/
def State.fetchWord (s : State) : Except ExecError (Byte × Byte) :=
  match s.memRead s.pc.toNat with
  | .error e => .error e
  | .ok hi =>
    match s.memRead ((s.pc.toNat + 1) % Config.memSize) with
    | .error e => .error e
    | .ok lo => .ok (hi, lo)

/-! ### Call stack (spec/10_state.md R24, spec/60_exceptions.md R171, R172) -/

/-- `push(v)`: `STACK[SP] <- v; SP <- SP + 1`, an error when 16 entries are live. -/
def State.push (s : State) (w : Word) : Except ExecError State :=
  if h : s.sp.val = Config.stackDepth then .error .stackOverflow
  else
    let k : Fin 16 := ⟨s.sp.val, by have := s.sp.isLt; simp only [Config.stackDepth] at h; omega⟩
    .ok (s.setStack k.succ (s.stack.set k.val w k.isLt))

/-- `pop()`: `SP <- SP - 1; return STACK[SP]`, an error when no entry is live. The vacated slot keeps its contents
(log entry 7). -/
def State.pop (s : State) : Except ExecError (Word × State) :=
  if h : s.sp.val = 0 then .error .stackUnderflow
  else
    let k : Fin 16 := ⟨s.sp.val - 1, by have := s.sp.isLt; omega⟩
    .ok (s.stack[k.val], s.setStack k.castSucc s.stack)

/-! ### Raising an error, and leaving the halted state -/

/-- Taking a fatal error, shared by every instruction that can raise one (spec/40_step_cycle.md R92,
spec/60_exceptions.md R174): `HALT <- 1; ERR <- e` and nothing else. `s` is the state after the Step's advance, so PC stays
advanced; there is no saved PC, no saved status, no handler address. -/
def raise (e : ExecError) (s : State) : Result := .next (s.setHalt true e)

/-- Reset of an existing machine (spec/70_reset_and_hazards.md R200), the only way out of `HALT = 1` (R175): every field at its
reset value, whatever it was. The random draws go on (R203(c): no repeatable sequence), so the draw counter is kept. -/
def State.resetFrom (s : State) : State := State.reset.setDraws s.draws

/-- The effect of SYS and of every unassigned encoding: `DIAG <- 1` (R95, R100). -/
def State.noteUnknown (s : State) : State := s.setDiag true

/-! ### Framebuffer (R27, spec/44_display.md) -/

/-- `FB[x][y]`. -/
def Framebuffer.cell (fb : Framebuffer) (x : Fin 64) (y : Fin 32) : Bool := (fb[x.val])[y.val]

/-- `FB[x][y] <- b`. -/
def Framebuffer.setCell (fb : Framebuffer) (x : Fin 64) (y : Fin 32) (b : Bool) : Framebuffer :=
  fb.set x.val ((fb[x.val]).set y.val b)

/-- Every cell off (R150). -/
def Framebuffer.clear : Framebuffer := .replicate 64 (.replicate 32 false)

/-- A framebuffer and whether a collision has been recorded, while a sprite is drawn. -/
abbrev Canvas := Framebuffer × Bool

/-- One set bit of a sprite: a collision where the cell is on, then XOR with "on" (R151). -/
def drawPixel (p : Canvas) (x : Fin 64) (y : Fin 32) : Canvas :=
  (Framebuffer.setCell p.1 x y (!Framebuffer.cell p.1 x y), p.2 || Framebuffer.cell p.1 x y)

/-- One sprite row at line `y`: column `col` is bit `7 - col` of the byte and cell `(vx + col) mod 64` (R151, R152). -/
def drawRow (b : Byte) (vx : Nat) (y : Fin 32) (p : Canvas) : Canvas :=
  (List.range 8).foldl
    (fun q col => if b.getLsbD (7 - col) then drawPixel q (Fin.ofNat 64 (vx + col)) y else q) p

/-- The rows of a sprite in ascending order, the first at line `vy mod 32` (R151). -/
def drawRows : List Byte → Nat → Nat → Canvas → Canvas
  | [], _, _, p => p
  | b :: bs, vx, vy, p => drawRows bs vx (vy + 1) (drawRow b vx (Fin.ofNat 32 vy) p)

/-! ### Placing an instruction where the next Step fetches it -/

/-- Two bytes at PC and `(PC + 1) mod 4096`, with the gates of Step open (R53, R90). PC is reduced modulo 4096, which changes
nothing where R22 holds. Log entry 8. -/
def State.placeAtPc (s : State) (hi lo : Byte) : State :=
  let a := s.pc.toNat % Config.memSize
  (((s.setPc (wrap12 a)).setHalt false s.err).setWait false s.waitReg).setMem
    ((s.mem.write a hi).write ((a + 1) % Config.memSize) lo)

end Sys2Proof.Machine
end

