-- ==== Sys2Proof/Machine/Flags.lean ====
section
/-! DEFINITION. The flag values and the order of the flag write (spec/10_state.md R21, spec/42_alu.md R132, R133). -/

namespace Sys2Proof.Machine

/-- A flag as the byte VF receives: 1 or 0. -/
def flagByte (c : Bool) : Byte := if c then 1#8 else 0#8

/-- Carry of an addition: the true sum exceeds 255 (R126). -/
def carryFlag (a b : Byte) : Byte := flagByte (decide (a.toNat + b.toNat > 255))

/-- No borrow of `a - b`: `a >= b` (R127, R129). -/
def noBorrowFlag (a b : Byte) : Byte := flagByte (decide (a.toNat ≥ b.toNat))

/-- The bit a right shift by one moves out (R128). -/
def lowBitFlag (a : Byte) : Byte := flagByte (a.getLsbD 0)

/-- The bit a left shift by one moves out (R130). -/
def highBitFlag (a : Byte) : Byte := flagByte (a.getLsbD 7)

/-- VF receives a flag. -/
def State.setFlag (s : State) (f : Byte) : State := s.setReg vf f

/-- R133: the flag is written first, the result second, so with `x = 0xF` VF ends as the result. Flag and result were
computed from latched operands (spec/00_scope.md R12). -/
def State.setFlagThenReg (s : State) (f : Byte) (x : Nibble) (r : Byte) : State := (s.setFlag f).setReg x r

end Sys2Proof.Machine
end

