-- ==== Sys2Proof/Machine/Display.lean ====
section
/-! DEFINITION. Clear screen and sprite blit (spec/44_display.md). -/

namespace Sys2Proof.Machine

/-- `CLS` (R150): VF is not written. -/
def execCls (s : State) : Result := .next (s.setFb Framebuffer.clear)

/-- `DRW Vx, Vy, N` (R151): the coordinates are latched before VF is cleared (D14); with N = 0 no byte is read and VF is
cleared; VF ends as 1 exactly when some cell went from on to off. -/
def execDrw (x y n : Nibble) (s : State) : Result :=
  match s.readBytes s.i.toNat n.toNat with
  | .ok rows =>
    let p := drawRows rows (s.reg x).toNat (s.reg y).toNat (s.fb, false)
    .next ((s.setFb p.1).setFlag (flagByte p.2))
  | .error e => raise e s

end Sys2Proof.Machine
end

