-- ==== Sys2Proof/Machine/Operands.lean ====
section
/-! DEFINITION. The operand forms that are more than a register or an immediate (spec/30_encoding.md R73). -/

namespace Sys2Proof.Machine

/-- The key a register names (spec/45_keys_timers.md R160, R161): none for a value above 15 (no masking, D15). -/
def State.keyOf (s : State) (x : Nibble) : Option Bool :=
  if h : (s.reg x).toNat < 16 then some (s.key[(s.reg x).toNat]) else none

/-- A skip: when the condition holds, PC moves a further 2 past the advanced value (spec/41_flow.md R104 to R109). -/
def State.skipIf (s : State) (c : Bool) : State := if c then s.advancePc else s

/-- The address of a digit's glyph: the whole byte times 5 (spec/43_index_memory.md R142). -/
def glyphAddr (b : Byte) : Word := BitVec.ofNat 16 (b.toNat * Config.glyphStride)

/-- Hundreds, tens and units of a byte (R143). -/
def bcdDigits (b : Byte) : List Byte :=
  [BitVec.ofNat 8 (b.toNat / 100), BitVec.ofNat 8 (b.toNat / 10 % 10), BitVec.ofNat 8 (b.toNat % 10)]

/-- `I` after a transfer of V0 to VX: `(I + X + 1) mod 4096` (R144, R145). -/
def State.advanceI (s : State) (i : Word) (x : Nibble) : State := s.setI (wrap12 (i.toNat + x.toNat + 1))

end Sys2Proof.Machine
end

