-- ==== Sys2Proof/Machine/Flow.lean ====
section
/-! DEFINITION. Control transfer (spec/41_flow.md). In every meaning PC is already advanced (spec/00_scope.md R11). -/

namespace Sys2Proof.Machine

/-- `SYS NNN` (R100): `DIAG <- 1`; NNN is ignored. -/
def execSys (_nnn : Addr12) (s : State) : Result := .next s.noteUnknown

/-- An unassigned encoding (spec/40_step_cycle.md R95): as SYS. Not an arm of `exec`: the decoder gives no instruction. -/
def execUnassigned (s : State) : Result := .next s.noteUnknown

/-- `RET` (R101). -/
def execRet (s : State) : Result :=
  match s.pop with
  | .ok (w, s') => .next (s'.setPc w)
  | .error e => raise e s

/-- `JP NNN` (R102). -/
def execJp (nnn : Addr12) (s : State) : Result := .next (s.setPc (addrWord nnn))

/-- `CALL NNN` (R103): pushes the advanced PC. -/
def execCall (nnn : Addr12) (s : State) : Result :=
  match s.push s.pc with
  | .ok s' => .next (s'.setPc (addrWord nnn))
  | .error e => raise e s

/-- `SE Vx, NN` (R104). -/
def execSeImm (x : Nibble) (nn : Byte) (s : State) : Result := .next (s.skipIf (s.reg x == nn))

/-- `SNE Vx, NN` (R105). -/
def execSneImm (x : Nibble) (nn : Byte) (s : State) : Result := .next (s.skipIf (s.reg x != nn))

/-- `SE Vx, Vy` (R106). -/
def execSeReg (x y : Nibble) (s : State) : Result := .next (s.skipIf (s.reg x == s.reg y))

/-- `SNE Vx, Vy` (R107). -/
def execSneReg (x y : Nibble) (s : State) : Result := .next (s.skipIf (s.reg x != s.reg y))

/-- `JP V0, NNN` (R108): always V0. -/
def execJpV0 (nnn : Addr12) (s : State) : Result := .next (s.setPc (wrap12 (nnn.toNat + (s.reg 0#4).toNat)))

end Sys2Proof.Machine
end

