-- ==== Sys2Proof/Machine/Index.lean ====
section
/-! DEFINITION. The index register and memory (spec/43_index_memory.md). None of these writes VF as a flag. -/

namespace Sys2Proof.Machine

/-- `LD I, NNN` (R140). -/
def execLdI (nnn : Addr12) (s : State) : Result := .next (s.setI (addrWord nnn))

/-- `ADD I, Vx` (R141): modulo 4096, no flag. -/
def execAddI (x : Nibble) (s : State) : Result := .next (s.setI (wrap12 (s.i.toNat + (s.reg x).toNat)))

/-- `LD F, Vx` (R142). -/
def execLdF (x : Nibble) (s : State) : Result := .next (s.setI (glyphAddr (s.reg x)))

/-- `LD B, Vx` (R143): I is unchanged. -/
def execLdB (x : Nibble) (s : State) : Result :=
  match s.writeBytes s.i.toNat (bcdDigits (s.reg x)) with
  | .ok s' => .next s'
  | .error e => raise e s

/-- `LD [I], Vx` (R144): V0 to VX to memory, then I advances. -/
def execLdMemVx (x : Nibble) (s : State) : Result :=
  match s.writeBytes s.i.toNat (s.regsUpTo x) with
  | .ok s' => .next (s'.advanceI s.i x)
  | .error e => raise e s

/-- `LD Vx, [I]` (R145): V0 to VX from memory, then I advances. -/
def execLdVxMem (x : Nibble) (s : State) : Result :=
  match s.readBytes s.i.toNat (x.toNat + 1) with
  | .ok bs => .next ((s.setRegs (loadRegs 0 bs s.v)).advanceI s.i x)
  | .error e => raise e s

end Sys2Proof.Machine
end

