-- ==== Sys2Proof/Machine/KeysTimers.lean ====
section
/-! DEFINITION. Keys and timers (spec/45_keys_timers.md). -/

namespace Sys2Proof.Machine

/-- `SKP Vx` (R160): no skip for a value above 15. -/
def execSkp (x : Nibble) (s : State) : Result := .next (s.skipIf (s.keyOf x == some true))

/-- `SKNP Vx` (R161): no skip for a value above 15 either. -/
def execSknp (x : Nibble) (s : State) : Result := .next (s.skipIf (s.keyOf x == some false))

/-- `LD Vx, DT` (R163). -/
def execLdVxDt (x : Nibble) (s : State) : Result := .next (s.setReg x s.dt)

/-- `LD Vx, K` (R162): `WAIT <- 1; WAITREG <- X` and nothing else; the rest is SetKey's. -/
def execLdVxK (x : Nibble) (s : State) : Result := .next (s.setWait true x)

/-- `LD DT, Vx` (R164). -/
def execLdDtVx (x : Nibble) (s : State) : Result := .next (s.setDt (s.reg x))

/-- `LD ST, Vx` (R165). -/
def execLdStVx (x : Nibble) (s : State) : Result := .next (s.setSt (s.reg x))

end Sys2Proof.Machine
end

