-- ==== Sys2Proof/Machine/Cycle.lean ====
section
/-! DEFINITION. The Step transaction: gates, fetch, advance, decode, execute (spec/40_step_cycle.md R90 to R95). -/

namespace Sys2Proof.Machine

/-- Decode the fetched bytes and execute, in the state whose PC is already advanced; bytes that are no instruction are the
no-op that sets DIAG (R95). -/
def runFetched (hi lo : Byte) (s : State) : Result :=
  match decodeBytes [hi, lo] with
  | .ok (i, _) => exec i s
  | .error _ => execUnassigned s

/-- `Step()` (R90): nothing while halted (R93) or awaiting a key (R94), else one instruction with PC advanced first (R91).
Step's result is read off the state it leaves, `stepReply` (log entry 4). -/
def stepTransaction (s : State) : Result :=
  if s.halt then .next s
  else if s.wait then .next s
  else
    match s.fetchWord with
    | .error _ => .fault .fetchOutsideMemory
    | .ok (hi, lo) => runFetched hi lo s.advancePc

end Sys2Proof.Machine
end

