-- ==== Sys2Proof/Machine/Step.lean ====
section
/-! DEFINITION. One step of the machine, and placing an instruction for it. -/

namespace Sys2Proof.Machine

/-- One Step transaction (spec/40_step_cycle.md R90). -/
def step (s : State) : Host.Outcome State Fault Refusal := stepTransaction s

/-- `s` with the instruction whose bits are `w` placed where the next step fetches and runs it (log entry 8). -/
def State.withFetchWord (s : State) (nbits w : Nat) : State :=
  s.placeAtPc (tableWordBytes nbits w).1 (tableWordBytes nbits w).2

end Sys2Proof.Machine
end

