-- ==== Sys2Proof/Machine/Transactions.lean ====
section
/-! DEFINITION. The host's transactions and read ports (spec/00_scope.md R7, spec/60_exceptions.md, spec/70_reset_and_hazards.md). -/

namespace Sys2Proof.Machine

/-! ### The transactions on an existing state -/

/-- A byte counter's tick: down by one, floored at 0. -/
def tickDown (b : Byte) : Byte := if b.toNat > 0 then b - 1#8 else b

/-- `TickTimers()` (R180): both timers, each on its own. -/
def State.tickTimers (s : State) : State := (s.setDt (tickDown s.dt)).setSt (tickDown s.st)

/-- The resolution of a pending key wait by a press of key `k` (R181): `V[WAITREG] <- k; WAIT <- 0`. -/
def State.resolveWait (s : State) (k : Nat) : State :=
  if s.wait then (s.setReg s.waitReg (BitVec.ofNat 8 k)).setWait false s.waitReg else s

/-- `SetKey(k, p)` (R181): ignored above 15; a press resolves a pending wait. -/
def State.setKey (s : State) (k : Nat) (p : Bool) : State :=
  if h : k < 16 then
    if p then (s.setKeys (s.key.set k p h)).resolveWait k else s.setKeys (s.key.set k p h)
  else s

/-- The load-time error of the core (R189); `RomUnreadable` is the host's (R5(e)). -/
inductive RomError where
  | romTooLarge
  deriving DecidableEq, Repr

/-- `LoadProgram(bytes)` (R201): memory only, from 0x200. -/
def State.loadProgram (s : State) (bytes : List Byte) : Except RomError State :=
  if bytes.length > Config.romMax then .error .romTooLarge
  else .ok (s.setMem (s.mem.copyIn Config.entry bytes))

/-- The launch state of a program: Reset, then LoadProgram (R202). -/
def launch (bytes : List Byte) : Except RomError State := State.reset.loadProgram bytes

/-! ### The read ports -/

/-- `Framebuffer()` (R182). -/
def State.framebuffer (s : State) : Framebuffer := s.fb

/-- `ProgramCounter()` (R183): PC as held. -/
def State.programCounter (s : State) : Word := s.pc

/-- `SoundTimerActive()` (R184). -/
def State.soundTimerActive (s : State) : Bool := decide (s.st.toNat > 0)

/-! ### All transactions together -/

/-- The host's moves (R7, R208). -/
inductive Transaction where
  | reset
  | loadProgram (bytes : List Byte)
  | step
  | tickTimers
  | setKey (index : Nat) (pressed : Bool)
  | readFramebuffer
  | readProgramCounter
  | readSoundTimerActive
  deriving DecidableEq, Repr

/-- What a transaction answers. -/
inductive Reply where
  | done
  | stepOk
  | stepErr (e : ExecError)
  | loadOk
  | loadErr (e : RomError)
  | grid (fb : Framebuffer)
  | address (pc : Word)
  | active (b : Bool)
  deriving DecidableEq, Repr

/-- Step's result, read off the state it leaves: `Err(ERR)` exactly when HALT = 1 (spec/40_step_cycle.md R90, R92 to R94). -/
def State.stepReply (s : State) : Reply := if s.halt then .stepErr s.err else .stepOk

/-- A transaction on an existing state. -/
def transactLive (t : Transaction) (s : State) : Host.Outcome (Reply × State) Fault Refusal :=
  match t with
  | .reset => .next (.done, s.resetFrom)
  | .loadProgram bytes =>
    match s.loadProgram bytes with
    | .ok s' => .next (.loadOk, s')
    | .error e => .next (.loadErr e, s)
  | .step =>
    match step s with
    | .next s' => .next (s'.stepReply, s')
    | .fault f => .fault f
    | .refused r => .refused r
  | .tickTimers => .next (.done, s.tickTimers)
  | .setKey k p => .next (.done, s.setKey k p)
  | .readFramebuffer => .next (.grid s.framebuffer, s)
  | .readProgramCounter => .next (.address s.programCounter, s)
  | .readSoundTimerActive => .next (.active s.soundTimerActive, s)

/-- A transaction on the machine: before the first Reset there is no state, and only Reset has a meaning (R35, R202). -/
def transact (t : Transaction) (m : Option State) : Host.Outcome (Reply × State) Fault Refusal :=
  match m with
  | some s => transactLive t s
  | none =>
    match t with
    | .reset => .next (.done, State.reset)
    | _ => .refused .beforeFirstReset

/-- The transactions of a run in the order the host chose (R59, R185), stopping at the first fault or refusal. -/
def runTransactions : List Transaction → State → Result
  | [], s => .next s
  | t :: ts, s =>
    match transactLive t s with
    | .next (_, s') => runTransactions ts s'
    | .fault f => .fault f
    | .refused r => .refused r

end Sys2Proof.Machine
end

