-- ==== Sys2Proof/Safety.lean ====
section
/-! DEFINITION. The invariant, what counts as a safe run and as its end, and the words the statements use. -/

namespace Sys2Proof.Machine

/-- What the spec says of every state the machine can be in. -/
structure State.Inv (s : State) : Prop where
  /-- I is masked to 12 bits (spec/10_state.md R23). -/
  i_le : s.i.toNat ≤ Config.maxAddr
  /-- PC is always 0x000 to 0xFFF (R22). -/
  pc_le : s.pc.toNat ≤ Config.maxAddr
  /-- Every stack entry is a value PC held, or 0 (R24). -/
  stack_le : ∀ k : Fin 16, (s.stack[k.val]).toNat ≤ Config.maxAddr
  /-- Memory is in canonical form. -/
  mem_wf : s.mem.wf
  /-- Memory lists no address outside the address space (spec/20_memory.md R50). -/
  mem_inRange : s.mem.inRange
  /-- HALT and WAIT are never both 1 (spec/60_exceptions.md R176). -/
  not_both : ¬ (s.halt = true ∧ s.wait = true)

/-- A state in which the next Step executes an instruction (spec/40_step_cycle.md R90). -/
abbrev State.Running (s : State) : Prop := s.halt = false ∧ s.wait = false

/-- R207: a jump to itself at PC, neither halted nor waiting. -/
abbrev State.EndedNormally (s : State) : Prop :=
  s.Running ∧ ∃ nnn : Addr12, addrWord nnn = s.pc ∧
    s.fetchWord = .ok ((encode (.jp nnn)).extractLsb' 8 8, (encode (.jp nnn)).extractLsb' 0 8)

/-- R207: a run has ended by fault when HALT = 1. -/
abbrev State.EndedByFault (s : State) : Prop := s.halt = true

/-- The premise the spec recommends for claims about programs: no error, no unassigned encoding (D6, D11, R95). -/
abbrev State.Clean (s : State) : Prop := s.halt = false ∧ s.diag = false

/-! ### Groups of state that a statement says are unchanged -/

/-- Every general register but those of a list. -/
def SameRegsBut (xs : List Nibble) (s t : State) : Prop := ∀ r : Nibble, r ∉ xs → t.reg r = s.reg r

/-- Every byte of memory but those at the addresses of `A`. -/
def SameBytesBut (A : Nat → Prop) (s t : State) : Prop := ∀ a : Nat, ¬ A a → t.mem.read a = s.mem.read a

/-- Every byte of memory. -/
def SameBytes (s t : State) : Prop := SameBytesBut (fun _ => False) s t

/-- Every framebuffer cell. -/
def SameCells (s t : State) : Prop := ∀ (x : Fin 64) (y : Fin 32), Framebuffer.cell t.fb x y = Framebuffer.cell s.fb x y

/-- Stack pointer and every stack entry. -/
def SameStack (s t : State) : Prop := t.sp = s.sp ∧ ∀ k : Fin 16, t.stack[k.val] = s.stack[k.val]

/-- Both timers. -/
def SameTimers (s t : State) : Prop := t.dt = s.dt ∧ t.st = s.st

/-- Every key slot. -/
def SameKeys (s t : State) : Prop := ∀ k : Fin 16, t.key[k.val] = s.key[k.val]

/-- WAIT, WAITREG, HALT, ERR and DIAG. -/
def SameStatus (s t : State) : Prop :=
  t.wait = s.wait ∧ t.waitReg = s.waitReg ∧ t.halt = s.halt ∧ t.err = s.err ∧ t.diag = s.diag

/-- What an instruction that works on registers only leaves alone: everything but the general registers, I, PC and the
draw counter. -/
def SameOutside (s t : State) : Prop :=
  SameBytes s t ∧ SameCells s t ∧ SameStack s t ∧ SameTimers s t ∧ SameKeys s t ∧ SameStatus s t

/-- The state after raising `e` in `s` (R92, R174): HALT and ERR, and nothing else. -/
def RaisedIn (e : ExecError) (s t : State) : Prop :=
  t.halt = true ∧ t.err = e ∧ t.wait = s.wait ∧ t.waitReg = s.waitReg ∧ t.diag = s.diag ∧
    SameRegsBut [] s t ∧ t.i = s.i ∧ t.pc = s.pc ∧ SameBytes s t ∧ SameCells s t ∧ SameStack s t ∧ SameTimers s t ∧
    SameKeys s t ∧ t.draws = s.draws

/-- General registers other than those of `xs` keep their values, and so does everything that is no general register. -/
def OnlyRegsChange (xs : List Nibble) (s t : State) : Prop :=
  SameRegsBut xs s t ∧ t.i = s.i ∧ t.pc = s.pc ∧ t.draws = s.draws ∧ SameOutside s t

/-- Everything but PC keeps its value. -/
def OnlyPcChanges (s t : State) : Prop := SameRegsBut [] s t ∧ t.i = s.i ∧ t.draws = s.draws ∧ SameOutside s t

/-- Everything but I keeps its value. -/
def OnlyIChanges (s t : State) : Prop := SameRegsBut [] s t ∧ t.pc = s.pc ∧ t.draws = s.draws ∧ SameOutside s t

/-- Everything but PC, SP and the stack entries keeps its value. -/
def OnlyPcAndStackChange (s t : State) : Prop :=
  SameRegsBut [] s t ∧ t.i = s.i ∧ t.draws = s.draws ∧ SameBytes s t ∧ SameCells s t ∧ SameTimers s t ∧ SameKeys s t ∧
    SameStatus s t

/-- Everything but I and the bytes at the addresses of `A` keeps its value. -/
def OnlyIAndBytesChange (A : Nat → Prop) (s t : State) : Prop :=
  SameRegsBut [] s t ∧ t.pc = s.pc ∧ t.draws = s.draws ∧ SameBytesBut A s t ∧ SameCells s t ∧ SameStack s t ∧
    SameTimers s t ∧ SameKeys s t ∧ SameStatus s t

/-! ### When an instruction raises an error, and what each may write -/

/-- The error an instruction raises in a state, if any (spec/60_exceptions.md R170 to R173). -/
def State.errorOf (s : State) : Instr → Option ExecError
  | .call _ => if s.sp.val = 16 then some .stackOverflow else none
  | .ret => if s.sp.val = 0 then some .stackUnderflow else none
  | .ldB _ => if s.i.toNat + 2 > 0xFFF then some .outOfBoundsAddress else none
  | .ldMemVx x => if s.i.toNat + x.toNat > 0xFFF then some .outOfBoundsAddress else none
  | .ldVxMem x => if s.i.toNat + x.toNat > 0xFFF then some .outOfBoundsAddress else none
  | .drw _ _ n => if n.toNat > 0 ∧ s.i.toNat + n.toNat - 1 > 0xFFF then some .outOfBoundsAddress else none
  | _ => none

/-- Columns "V" and "VF flag" of the access matrix (spec/10_state.md R36): the registers an instruction may write. -/
def writesReg (r : Nibble) : Instr → Prop
  | .ldImm x _ | .addImm x _ | .ldReg x _ | .orReg x _ | .andReg x _ | .xorReg x _ | .rnd x _ | .ldVxDt x => r = x
  | .addReg x _ | .sub x _ | .shr x _ | .subn x _ | .shl x _ => r = x ∨ r = vf
  | .drw _ _ _ => r = vf
  | .ldVxMem x => r.toNat ≤ x.toNat
  | _ => False

/-- Column "I" of R36. -/
def writesI : Instr → Prop
  | .ldI _ | .addI _ | .ldF _ | .ldMemVx _ | .ldVxMem _ => True
  | _ => False

/-- Column "PC" of R36; also R22 and R109. -/
def writesPc : Instr → Prop
  | .ret | .jp _ | .call _ | .seImm _ _ | .sneImm _ _ | .seReg _ _ | .sneReg _ _ | .jpV0 _ | .skp _ | .sknp _ => True
  | _ => False

/-- Column "stack" of R36. -/
def writesStack : Instr → Prop
  | .ret | .call _ => True
  | _ => False

/-- Column "MEM" of R36, the writers. -/
def writesMem : Instr → Prop
  | .ldB _ | .ldMemVx _ => True
  | _ => False

/-- Column "FB" of R36, the writers. -/
def writesFb : Instr → Prop
  | .cls | .drw _ _ _ => True
  | _ => False

/-! ### Sprites and load states -/

/-- A set bit of the sprite of `DRW Vx, Vy, N` falls on cell `(cx, cy)` (spec/44_display.md R151, R152). -/
def SpriteCovers (s : State) (x y n : Nibble) (cx : Fin 64) (cy : Fin 32) : Prop :=
  ∃ row < n.toNat, ∃ col < 8, (s.mem.read (s.i.toNat + row)).getLsbD (7 - col) = true ∧
    cx.val = ((s.reg x).toNat + col) % 64 ∧ cy.val = ((s.reg y).toNat + row) % 32

/-- Every field at the value R200 gives it; ERR and the draw counter are left out. -/
def AtResetValues (s : State) : Prop :=
  (∀ r : Nibble, s.reg r = 0#8) ∧ s.i = 0#16 ∧ s.pc = 0x200#16 ∧ s.sp.val = 0 ∧
    (∀ k : Fin 16, s.stack[k.val] = 0#16) ∧ s.dt = 0#8 ∧ s.st = 0#8 ∧
    (∀ (x : Fin 64) (y : Fin 32), Framebuffer.cell s.fb x y = false) ∧ (∀ a : Nat, a ≤ 0xFFF → s.memRead a = .ok 0#8) ∧
    (∀ k : Fin 16, s.key[k.val] = false) ∧ s.wait = false ∧ s.waitReg = 0#4 ∧ s.halt = false ∧ s.diag = false

end Sys2Proof.Machine
end

