-- ==== Sys2Proof/Certificates/Slice0/Obligations.lean ====
section
/-! DEFINITION. The statements for the provers. In every statement about `exec`, PC is the value the Step transaction has
already advanced (spec/00_scope.md R11); a frame names what stays unchanged (predicates of Sys2Proof/Safety.lean). A D<n> marks
a clause that rests on a decision of spec/92_eei_decisions.md, the spec's own choice where its source is silent (log entry 16). -/

open Sys2Proof Sys2Proof.Machine

/-! ### Encoding (spec/30_encoding.md; the bit patterns are the spec's general knowledge, D2, D3, log entry 17) -/

/-- R76, R71: decoding the word of a well-formed instruction gives the instruction back, for every operand. That SHR and SHL
carry their ignored Y field, which R81's SHR(X) and SHL(X) leave out, is the model's choice (log entry 11). -/
def Obligations.DecodeOfEncodeIsTheInstruction : Prop :=
  ∀ i : Instr, i.WellFormed → decode (encode i) = .ok i

/-- R76, R77: the decoder drops no bit: what it reads is well formed and encodes to the same word. For 8XY6 and 8XYE this rests
on the model's choice to keep the ignored Y field in SHR and SHL (log entry 11): R81 decodes these words to SHR(X) and SHL(X),
and R79 calls a non-zero Y the same instruction, so of the spec's own decoder it would hold there for Y = 0 only. -/
def Obligations.EncodeOfDecodeIsTheWord : Prop :=
  ∀ (op : Word) (i : Instr), decode op = .ok i → i.WellFormed ∧ encode i = op

/-- R76, R77, R81: the decoder reads a word as an instruction of a row that the word selects, and rejects exactly the words
that select no row. -/
def Obligations.DecoderFollowsTheOpcodeMap : Prop :=
  ∀ op : Word,
    (∀ i, decode op = .ok i → ∃ row ∈ opcodeMap, row.mnemonic = i.mnemonic ∧ row.Selects op) ∧
    (∀ e, decode op = .error e → e = .unassigned op ∧ ∀ row ∈ opcodeMap, ¬ row.Selects op)

/-- R76: a word selects at most one row of the opcode map. -/
def Obligations.OpcodeRowsDoNotOverlap : Prop :=
  ∀ op : Word, ∀ row ∈ opcodeMap, ∀ other ∈ opcodeMap, row.Selects op → other.Selects op → row = other

/-- R78: the unassigned words other than SYS, set by set, with the fields as numbers. -/
def Obligations.UnassignedWordsAreExactlyTheListedSets : Prop :=
  ∀ op : Word, (∃ e, decode op = .error e) ↔
    (op.toNat / 4096 = 0x5 ∧ op.toNat % 16 ≠ 0) ∨
    (op.toNat / 4096 = 0x8 ∧ op.toNat % 16 ∈ [0x8, 0x9, 0xA, 0xB, 0xC, 0xD, 0xF]) ∨
    (op.toNat / 4096 = 0x9 ∧ op.toNat % 16 ≠ 0) ∨
    (op.toNat / 4096 = 0xE ∧ op.toNat % 256 ∉ [0x9E, 0xA1]) ∨
    (op.toNat / 4096 = 0xF ∧ op.toNat % 256 ∉ [0x07, 0x0A, 0x15, 0x18, 0x1E, 0x29, 0x33, 0x55, 0x65])

/-- R76: some words of spec/95_test_vectors.md, one or more of every family. -/
def Obligations.SampleWordsDecode : Prop :=
  decode 0x0123#16 = .ok (.sys 0x123#12) ∧ decode 0x00E0#16 = .ok .cls ∧ decode 0x00EE#16 = .ok .ret ∧
  decode 0x1ABC#16 = .ok (.jp 0xABC#12) ∧ decode 0x3A05#16 = .ok (.seImm 0xA#4 0x05#8) ∧
  decode 0x8125#16 = .ok (.sub 0x1#4 0x2#4) ∧ decode 0xD012#16 = .ok (.drw 0x0#4 0x1#4 0x2#4) ∧
  decode 0xE39E#16 = .ok (.skp 0x3#4) ∧ decode 0xF265#16 = .ok (.ldVxMem 0x2#4) ∧
  decode 0x8128#16 = .error (.unassigned 0x8128#16)

/-! ### The Step transaction (spec/40_step_cycle.md) -/

/-- R53: the word fetched is the byte at PC times 256 plus the byte at `(PC + 1) mod 4096` (the reduction is D7's), and the
fetch raises nothing. -/
def Obligations.FetchIsBigEndianAndWraps : Prop :=
  ∀ s : State, s.pc.toNat ≤ 0xFFF → ∃ hi lo : Byte, s.fetchWord = .ok (hi, lo) ∧
    hi = s.mem.read s.pc.toNat ∧ lo = s.mem.read ((s.pc.toNat + 1) % 4096) ∧
    (wordOfBytes hi lo).toNat = hi.toNat * 256 + lo.toNat

/-- R90, R91: a Step that is neither halted nor waiting executes the instruction at PC, in the state whose PC has been
advanced by 2 modulo 4096 (D7). -/
def Obligations.StepRunsTheDecodedInstruction : Prop :=
  ∀ (s : State) (i : Instr), s.Running → s.pc.toNat ≤ 0xFFF →
    decode (wordOfBytes (s.mem.read s.pc.toNat) (s.mem.read ((s.pc.toNat + 1) % 4096))) = .ok i →
    step s = exec i { s with pc := BitVec.ofNat 16 ((s.pc.toNat + 2) % 4096) }

/-- R95, R100: an unassigned word and SYS are consumed: DIAG is set, PC is advanced, nothing else changes (D5, D6). -/
def Obligations.StepOnAnUnknownWordOnlySetsDiag : Prop :=
  ∀ s : State, s.Running → s.pc.toNat ≤ 0xFFF →
    ((∃ e, decode (wordOfBytes (s.mem.read s.pc.toNat) (s.mem.read ((s.pc.toNat + 1) % 4096))) = .error e) ∨
      ∃ nnn, decode (wordOfBytes (s.mem.read s.pc.toNat) (s.mem.read ((s.pc.toNat + 1) % 4096))) = .ok (.sys nnn)) →
    step s = .next { s with pc := BitVec.ofNat 16 ((s.pc.toNat + 2) % 4096), diag := true }

/-- R93, R94: a Step while halted changes nothing and answers the stored error (D11); a Step while waiting changes nothing and
answers Ok (D16). HALT is tested first. -/
def Obligations.StepIsIdleWhileHaltedOrWaiting : Prop :=
  ∀ s : State,
    (s.halt = true → step s = .next s ∧ transactLive .step s = .next (.stepErr s.err, s)) ∧
    (s.halt = false → s.wait = true → step s = .next s ∧ transactLive .step s = .next (.stepOk, s))

/-- R92: the state after a failed Step equals the state before it except for PC, which is advanced, HALT and ERR; Step
answers the error (D10). -/
def Obligations.FailedStepChangesOnlyPcHaltAndErr : Prop :=
  ∀ s t : State, s.Running → step s = .next t → t.halt = true →
    t = { s with pc := BitVec.ofNat 16 ((s.pc.toNat + 2) % 4096), halt := true, err := t.err } ∧
    transactLive .step s = .next (.stepErr t.err, t)

/-- R90, R98: from every state that meets the invariant a Step answers a next state: it never faults and never refuses. -/
def Obligations.StepAlwaysAnswersANextState : Prop :=
  ∀ s : State, s.Inv → ∃ t, step s = .next t

/-! ### The invariant -/

/-- R22, R23, R24, R50, R176: every Step keeps I, PC and the stack entries in 0x000 to 0xFFF, memory canonical and inside the
address space, and HALT and WAIT never both 1. -/
def Obligations.EveryStepKeepsTheInvariant : Prop :=
  ∀ s t : State, s.Inv → step s = .next t → t.Inv

/-- The state after Reset meets the invariant. -/
def Obligations.ResetStateMeetsTheInvariant : Prop := State.reset.Inv

/-- R185, R208: every transaction of the host answers, in every state that meets the invariant, and keeps the invariant. -/
def Obligations.EveryTransactionAnswersAndKeepsTheInvariant : Prop :=
  ∀ (t : Transaction) (s : State), s.Inv → ∃ r s', transactLive t s = .next (r, s') ∧ s'.Inv

/-- R7, R185: no order of transactions, however long, stops the machine or leaves the invariant. -/
def Obligations.EveryRunOfTransactionsKeepsTheInvariant : Prop :=
  ∀ (ts : List Transaction) (s : State), s.Inv → ∃ t, runTransactions ts s = .next t ∧ t.Inv

/-- R175, R31: only Reset leaves the halted state; every other transaction keeps HALT, ERR and PC (D11). -/
def Obligations.OnlyResetLeavesTheHaltedState : Prop :=
  ∀ (t : Transaction) (s : State), s.halt = true →
    (t ≠ .reset → ∀ r s', transactLive t s = .next (r, s') → s'.halt = true ∧ s'.err = s.err ∧ s'.pc = s.pc) ∧
    (∀ r s', transactLive .reset s = .next (r, s') → s'.halt = false)

/-! ### Whole-machine rules over all instructions -/

/-- R170 to R173, R174: an instruction raises an error exactly under the listed conditions, and then only HALT and ERR change;
otherwise it answers a next state with HALT and ERR as they were (D9, D10, D11). -/
def Obligations.ErrorsAreRaisedExactlyWhenListed : Prop :=
  ∀ (i : Instr) (s : State),
    (∀ e, s.errorOf i = some e → ∃ t, exec i s = .next t ∧ RaisedIn e s t) ∧
    (s.errorOf i = none → ∃ t, exec i s = .next t ∧ t.halt = s.halt ∧ t.err = s.err)

/-- R36: an instruction writes nothing outside its row of the access matrix (HALT and ERR, written by Step on an error, are
the previous statement's). -/
def Obligations.InstructionsWriteOnlyWhatTheAccessMatrixAllows : Prop :=
  ∀ (i : Instr) (s t : State), exec i s = .next t →
    (∀ r, ¬ writesReg r i → t.reg r = s.reg r) ∧ (¬ writesI i → t.i = s.i) ∧ (¬ writesPc i → t.pc = s.pc) ∧
    (¬ writesStack i → SameStack s t) ∧ (¬ writesMem i → SameBytes s t) ∧ (¬ writesFb i → SameCells s t) ∧
    ((∀ x, i ≠ .ldDtVx x) → t.dt = s.dt) ∧ ((∀ x, i ≠ .ldStVx x) → t.st = s.st) ∧ SameKeys s t ∧
    ((∀ x, i ≠ .ldVxK x) → t.wait = s.wait ∧ t.waitReg = s.waitReg) ∧ ((∀ nnn, i ≠ .sys nnn) → t.diag = s.diag) ∧
    ((∀ x nn, i ≠ .rnd x nn) → t.draws = s.draws)

/-- R26: only EX9E and EXA1 read the key state: any other instruction does the same whatever the keys are. -/
def Obligations.KeysAreReadOnlyByTheKeySkips : Prop :=
  ∀ (i : Instr) (s t : State) (key : Vector Bool 16), (∀ x, i ≠ .skp x ∧ i ≠ .sknp x) →
    exec i s = .next t → exec i { s with key := key } = .next { t with key := key }

/-- R32: nothing reads DIAG: a Step does the same whatever DIAG is, but for DIAG itself. -/
def Obligations.DiagInfluencesNothing : Prop :=
  ∀ (s t : State) (d : Bool), step s = .next t → ∃ d', step { s with diag := d } = .next { t with diag := d' }

/-- R25: no instruction reads the sound timer. -/
def Obligations.SoundTimerIsReadByNoInstruction : Prop :=
  ∀ (i : Instr) (s t : State) (b : Byte), exec i s = .next t →
    ((∀ x, i ≠ .ldStVx x) → exec i { s with st := b } = .next { t with st := b }) ∧
    ((∃ x, i = .ldStVx x) → exec i { s with st := b } = .next t)

/-! ### Control transfer (spec/41_flow.md) -/

/-- R100: SYS sets DIAG and changes nothing else (D5, D6). -/
def Obligations.SysOnlySetsDiag : Prop :=
  ∀ (nnn : Addr12) (s : State), ∃ t, exec (.sys nnn) s = .next t ∧ t.diag = true ∧
    t.wait = s.wait ∧ t.waitReg = s.waitReg ∧ t.halt = s.halt ∧ t.err = s.err ∧
    SameRegsBut [] s t ∧ t.i = s.i ∧ t.pc = s.pc ∧ t.draws = s.draws ∧ SameBytes s t ∧ SameCells s t ∧ SameStack s t ∧
    SameTimers s t ∧ SameKeys s t

/-- R102. -/
def Obligations.JumpSetsPc : Prop :=
  ∀ (nnn : Addr12) (s : State), ∃ t, exec (.jp nnn) s = .next t ∧ t.pc.toNat = nnn.toNat ∧ OnlyPcChanges s t

/-- R108. -/
def Obligations.JumpWithOffsetAddsV0 : Prop :=
  ∀ (nnn : Addr12) (s : State), ∃ t, exec (.jpV0 nnn) s = .next t ∧
    t.pc.toNat = (nnn.toNat + (s.reg 0#4).toNat) % 4096 ∧ OnlyPcChanges s t

/-- R104 to R107: the four skips; a taken skip moves PC a further 2, modulo 4096 (D7). -/
def Obligations.SkipsMovePcByTwoWhenTheirConditionHolds : Prop :=
  (∀ (x : Nibble) (nn : Byte) (s : State), ∃ t, exec (.seImm x nn) s = .next t ∧ OnlyPcChanges s t ∧
    (s.reg x = nn → t.pc.toNat = (s.pc.toNat + 2) % 4096) ∧ (s.reg x ≠ nn → t.pc = s.pc)) ∧
  (∀ (x : Nibble) (nn : Byte) (s : State), ∃ t, exec (.sneImm x nn) s = .next t ∧ OnlyPcChanges s t ∧
    (s.reg x ≠ nn → t.pc.toNat = (s.pc.toNat + 2) % 4096) ∧ (s.reg x = nn → t.pc = s.pc)) ∧
  (∀ (x y : Nibble) (s : State), ∃ t, exec (.seReg x y) s = .next t ∧ OnlyPcChanges s t ∧
    (s.reg x = s.reg y → t.pc.toNat = (s.pc.toNat + 2) % 4096) ∧ (s.reg x ≠ s.reg y → t.pc = s.pc)) ∧
  (∀ (x y : Nibble) (s : State), ∃ t, exec (.sneReg x y) s = .next t ∧ OnlyPcChanges s t ∧
    (s.reg x ≠ s.reg y → t.pc.toNat = (s.pc.toNat + 2) % 4096) ∧ (s.reg x = s.reg y → t.pc = s.pc))

/-- R103: a call below the depth limit pushes the advanced PC and jumps (the limit 16 is D20's). -/
def Obligations.CallPushesAndJumps : Prop :=
  ∀ (nnn : Addr12) (s : State) (h : s.sp.val < 16), ∃ t, exec (.call nnn) s = .next t ∧
    t.sp.val = s.sp.val + 1 ∧ t.stack[s.sp.val] = s.pc ∧
    (∀ k : Fin 16, k.val ≠ s.sp.val → t.stack[k.val] = s.stack[k.val]) ∧
    t.pc.toNat = nnn.toNat ∧ OnlyPcAndStackChange s t

/-- R101: a return with a live entry pops it into PC; that the vacated entry keeps its value is the model's choice (log
entry 7). -/
def Obligations.ReturnPopsIntoPc : Prop :=
  ∀ (s : State) (k : Fin 16), s.sp.val = k.val + 1 → ∃ t, exec .ret s = .next t ∧
    t.sp.val = k.val ∧ t.pc = s.stack[k.val] ∧ (∀ j : Fin 16, t.stack[j.val] = s.stack[j.val]) ∧ OnlyPcAndStackChange s t

/-- R171, R172: a call at depth 16 raises StackOverflow, a return at depth 0 raises StackUnderflow, and nothing but HALT and
ERR changes (D11, D20). -/
def Obligations.CallAndReturnRaiseAtTheLimits : Prop :=
  ∀ s : State,
    (s.sp.val = 16 → ∀ nnn, ∃ t, exec (.call nnn) s = .next t ∧ RaisedIn .stackOverflow s t) ∧
    (s.sp.val = 0 → ∃ t, exec .ret s = .next t ∧ RaisedIn .stackUnderflow s t)

/-- R103: a call followed by a return restores PC and SP, and changes nothing but the vacated stack entry. -/
def Obligations.CallThenReturnRestoresPc : Prop :=
  ∀ (nnn : Addr12) (s : State), s.sp.val < 16 → ∃ t u, exec (.call nnn) s = .next t ∧ exec .ret t = .next u ∧
    u.pc = s.pc ∧ u.sp = s.sp ∧ (∀ k : Fin 16, k.val < s.sp.val → u.stack[k.val] = s.stack[k.val]) ∧
    OnlyPcAndStackChange s u

/-- R207, R102: at a jump to itself, neither halted nor waiting, a Step leaves the entire state unchanged (the convention of a
normal end is D28's). -/
def Obligations.JumpToSelfLeavesTheStateUnchanged : Prop :=
  ∀ s : State, s.EndedNormally → step s = .next s

/-! ### Registers (spec/42_alu.md) -/

/-- R120, R122: the two register loads. -/
def Obligations.RegisterLoadsCopyTheirSource : Prop :=
  (∀ (x : Nibble) (nn : Byte) (s : State), ∃ t, exec (.ldImm x nn) s = .next t ∧ t.reg x = nn ∧ OnlyRegsChange [x] s t) ∧
  (∀ (x y : Nibble) (s : State), ∃ t, exec (.ldReg x y) s = .next t ∧ t.reg x = s.reg y ∧ OnlyRegsChange [x] s t)

/-- R121: addition of an immediate, modulo 256, without a flag. -/
def Obligations.AddImmediateWrapsWithoutAFlag : Prop :=
  ∀ (x : Nibble) (nn : Byte) (s : State), ∃ t, exec (.addImm x nn) s = .next t ∧
    (t.reg x).toNat = ((s.reg x).toNat + nn.toNat) % 256 ∧ OnlyRegsChange [x] s t

/-- R123, R124, R125: the bitwise instructions, bit by bit, without a flag. -/
def Obligations.LogicActsOnEveryBitWithoutAFlag : Prop :=
  (∀ (x y : Nibble) (s : State), ∃ t, exec (.orReg x y) s = .next t ∧ OnlyRegsChange [x] s t ∧
    ∀ k < 8, (t.reg x).getLsbD k = ((s.reg x).getLsbD k || (s.reg y).getLsbD k)) ∧
  (∀ (x y : Nibble) (s : State), ∃ t, exec (.andReg x y) s = .next t ∧ OnlyRegsChange [x] s t ∧
    ∀ k < 8, (t.reg x).getLsbD k = ((s.reg x).getLsbD k && (s.reg y).getLsbD k)) ∧
  (∀ (x y : Nibble) (s : State), ∃ t, exec (.xorReg x y) s = .next t ∧ OnlyRegsChange [x] s t ∧
    ∀ k < 8, (t.reg x).getLsbD k = ((s.reg x).getLsbD k != (s.reg y).getLsbD k))

/-- R126: sum modulo 256 and carry, from the operands before the instruction (D12); with `X = 0xF` the sum wins (D13). -/
def Obligations.AddRegistersGivesSumAndCarry : Prop :=
  ∀ (x y : Nibble) (s : State), ∃ t, exec (.addReg x y) s = .next t ∧
    (t.reg x).toNat = ((s.reg x).toNat + (s.reg y).toNat) % 256 ∧
    (x ≠ 0xF#4 → (t.reg 0xF#4).toNat = if (s.reg x).toNat + (s.reg y).toNat > 255 then 1 else 0) ∧
    OnlyRegsChange [x, 0xF#4] s t

/-- R127, R129: both differences modulo 256 and their no-borrow flags (D12); with `X = 0xF` the difference wins (D13). -/
def Obligations.SubtractionsGiveDifferenceAndNoBorrow : Prop :=
  (∀ (x y : Nibble) (s : State), ∃ t, exec (.sub x y) s = .next t ∧
    (t.reg x).toNat = ((s.reg x).toNat + 256 - (s.reg y).toNat) % 256 ∧
    (x ≠ 0xF#4 → (t.reg 0xF#4).toNat = if (s.reg x).toNat ≥ (s.reg y).toNat then 1 else 0) ∧
    OnlyRegsChange [x, 0xF#4] s t) ∧
  (∀ (x y : Nibble) (s : State), ∃ t, exec (.subn x y) s = .next t ∧
    (t.reg x).toNat = ((s.reg y).toNat + 256 - (s.reg x).toNat) % 256 ∧
    (x ≠ 0xF#4 → (t.reg 0xF#4).toNat = if (s.reg y).toNat ≥ (s.reg x).toNat then 1 else 0) ∧
    OnlyRegsChange [x, 0xF#4] s t)

/-- R128, R130: both shifts of Vx by one place, with the bit moved out in VF, whatever the Y field is (D23, D12); with
`X = 0xF` the result wins (D13). -/
def Obligations.ShiftsGiveResultAndBitMovedOut : Prop :=
  (∀ (x y : Nibble) (s : State), ∃ t, exec (.shr x y) s = .next t ∧
    (t.reg x).toNat = (s.reg x).toNat / 2 ∧ (x ≠ 0xF#4 → (t.reg 0xF#4).toNat = (s.reg x).toNat % 2) ∧
    OnlyRegsChange [x, 0xF#4] s t) ∧
  (∀ (x y : Nibble) (s : State), ∃ t, exec (.shl x y) s = .next t ∧
    (t.reg x).toNat = (s.reg x).toNat * 2 % 256 ∧ (x ≠ 0xF#4 → (t.reg 0xF#4).toNat = (s.reg x).toNat / 128) ∧
    OnlyRegsChange [x, 0xF#4] s t)

/-- R131: the random byte masked with NN, whatever the byte is (a free value, D21, log entry 2), so no bit is set that NN has
clear; the draw is used up. -/
def Obligations.RandomIsMaskedByTheImmediate : Prop :=
  ∀ (x : Nibble) (nn : Byte) (s : State), ∃ t, exec (.rnd x nn) s = .next t ∧
    t.reg x = (Config.randomByte s.draws &&& nn) ∧ (∀ k, nn.getLsbD k = false → (t.reg x).getLsbD k = false) ∧
    t.draws = s.draws + 1 ∧ SameRegsBut [x] s t ∧ t.i = s.i ∧ t.pc = s.pc ∧ SameOutside s t

/-! ### Index register and memory (spec/43_index_memory.md, spec/20_memory.md) -/

/-- R140, R141, R142: the three updates of I. -/
def Obligations.IndexUpdates : Prop :=
  (∀ (nnn : Addr12) (s : State), ∃ t, exec (.ldI nnn) s = .next t ∧ t.i.toNat = nnn.toNat ∧ OnlyIChanges s t) ∧
  (∀ (x : Nibble) (s : State), ∃ t, exec (.addI x) s = .next t ∧
    t.i.toNat = (s.i.toNat + (s.reg x).toNat) % 4096 ∧ OnlyIChanges s t) ∧
  (∀ (x : Nibble) (s : State), ∃ t, exec (.ldF x) s = .next t ∧ t.i.toNat = (s.reg x).toNat * 5 ∧ OnlyIChanges s t)

/-- R143: the three decimal digits at I, I+1, I+2, and every other byte and I unchanged. -/
def Obligations.BcdStoresThreeDigits : Prop :=
  ∀ (x : Nibble) (s : State), s.i.toNat + 2 ≤ 0xFFF → ∃ t, exec (.ldB x) s = .next t ∧
    (t.mem.read s.i.toNat).toNat = (s.reg x).toNat / 100 ∧
    (t.mem.read (s.i.toNat + 1)).toNat = (s.reg x).toNat / 10 % 10 ∧
    (t.mem.read (s.i.toNat + 2)).toNat = (s.reg x).toNat % 10 ∧ t.i = s.i ∧
    OnlyIAndBytesChange (fun a => s.i.toNat ≤ a ∧ a ≤ s.i.toNat + 2) s t

/-- R144: V0 to VX at I to I+X, I advanced by X+1 modulo 4096, every other byte unchanged. -/
def Obligations.RegisterDumpStoresV0ToVx : Prop :=
  ∀ (x : Nibble) (s : State), s.i.toNat + x.toNat ≤ 0xFFF → ∃ t, exec (.ldMemVx x) s = .next t ∧
    (∀ r : Nibble, r.toNat ≤ x.toNat → t.mem.read (s.i.toNat + r.toNat) = s.reg r) ∧
    t.i.toNat = (s.i.toNat + x.toNat + 1) % 4096 ∧
    OnlyIAndBytesChange (fun a => s.i.toNat ≤ a ∧ a ≤ s.i.toNat + x.toNat) s t

/-- R145: V0 to VX from I to I+X, I advanced by X+1 modulo 4096, the registers above VX and all of memory unchanged. -/
def Obligations.RegisterLoadFillsV0ToVx : Prop :=
  ∀ (x : Nibble) (s : State), s.i.toNat + x.toNat ≤ 0xFFF → ∃ t, exec (.ldVxMem x) s = .next t ∧
    (∀ r : Nibble, r.toNat ≤ x.toNat → t.reg r = s.mem.read (s.i.toNat + r.toNat)) ∧
    (∀ r : Nibble, r.toNat > x.toNat → t.reg r = s.reg r) ∧
    t.i.toNat = (s.i.toNat + x.toNat + 1) % 4096 ∧ t.pc = s.pc ∧ t.draws = s.draws ∧ SameOutside s t

/-- R54, R173: the four instructions that address memory raise OutOfBoundsAddress when their largest address exceeds 0xFFF, and
nothing but HALT and ERR changes (D9, D10). -/
def Obligations.OutOfBoundsRaisesBeforeAnyWrite : Prop :=
  ∀ s : State,
    (s.i.toNat + 2 > 0xFFF → ∀ x, ∃ t, exec (.ldB x) s = .next t ∧ RaisedIn .outOfBoundsAddress s t) ∧
    (∀ x : Nibble, s.i.toNat + x.toNat > 0xFFF →
      (∃ t, exec (.ldMemVx x) s = .next t ∧ RaisedIn .outOfBoundsAddress s t) ∧
      (∃ t, exec (.ldVxMem x) s = .next t ∧ RaisedIn .outOfBoundsAddress s t)) ∧
    (∀ n : Nibble, n.toNat > 0 → s.i.toNat + n.toNat - 1 > 0xFFF →
      ∀ x y, ∃ t, exec (.drw x y n) s = .next t ∧ RaisedIn .outOfBoundsAddress s t)

/-- R144, R145: a register dump, then a load from the same base with the same X, restores the registers, whatever the program
did to them in between. -/
def Obligations.DumpThenLoadRestoresTheRegisters : Prop :=
  ∀ (x : Nibble) (s : State) (v : Vector Byte 16), s.i.toNat + x.toNat ≤ 0xFFF →
    ∃ t u, exec (.ldMemVx x) s = .next t ∧ exec (.ldVxMem x) { t with v := v, i := s.i } = .next u ∧
      ∀ r : Nibble, r.toNat ≤ x.toNat → u.reg r = s.reg r

/-- R51, R52: a read after a write gives the byte written and every other address is as before; an address above 0xFFF is an
error for both and no state results (D9 for reads). -/
def Obligations.MemoryReadsGiveTheLastByteWritten : Prop :=
  ∀ (s : State) (a : Nat) (b : Byte),
    (a ≤ 0xFFF → ∃ t, s.memWrite a b = .ok t ∧ t.memRead a = .ok b ∧ ∀ a', a' ≠ a → t.memRead a' = s.memRead a') ∧
    (a > 0xFFF → s.memWrite a b = .error .outOfBoundsAddress ∧ s.memRead a = .error .outOfBoundsAddress)

/-- Two memories in canonical form that read the same everywhere are the same data. -/
def Obligations.CanonicalMemoriesWithEqualBytesAreEqual : Prop :=
  ∀ m m' : Memory, m.wf → m'.wf → (∀ a, m.read a = m'.read a) → m = m'

/-! ### Display (spec/44_display.md) -/

/-- R150: every cell off, nothing else. -/
def Obligations.ClearScreenTurnsEveryCellOff : Prop :=
  ∀ s : State, ∃ t, exec .cls s = .next t ∧ (∀ x y, Framebuffer.cell t.fb x y = false) ∧
    SameRegsBut [] s t ∧ t.i = s.i ∧ t.pc = s.pc ∧ t.draws = s.draws ∧ SameBytes s t ∧ SameStack s t ∧ SameTimers s t ∧
    SameKeys s t ∧ SameStatus s t

/-- R151, R152: exactly the cells covered by a set bit flip, with coordinates modulo 64 and 32 taken before VF is cleared (D14);
VF is 1 when a covered cell was on and 0 when none was; with N = 0 there is no bounds condition. -/
def Obligations.DrawFlipsExactlyTheCoveredCells : Prop :=
  ∀ (x y n : Nibble) (s : State), (n.toNat = 0 ∨ s.i.toNat + n.toNat - 1 ≤ 0xFFF) → ∃ t, exec (.drw x y n) s = .next t ∧
    (∀ cx cy, SpriteCovers s x y n cx cy → Framebuffer.cell t.fb cx cy = !Framebuffer.cell s.fb cx cy) ∧
    (∀ cx cy, ¬ SpriteCovers s x y n cx cy → Framebuffer.cell t.fb cx cy = Framebuffer.cell s.fb cx cy) ∧
    ((∃ cx cy, SpriteCovers s x y n cx cy ∧ Framebuffer.cell s.fb cx cy = true) → t.reg 0xF#4 = 1#8) ∧
    ((∀ cx cy, SpriteCovers s x y n cx cy → Framebuffer.cell s.fb cx cy = false) → t.reg 0xF#4 = 0#8) ∧
    SameRegsBut [0xF#4] s t ∧ t.i = s.i ∧ t.pc = s.pc ∧ t.draws = s.draws ∧ SameBytes s t ∧ SameStack s t ∧
    SameTimers s t ∧ SameKeys s t ∧ SameStatus s t

/-- R151(g): drawing the same sprite twice at the same place restores every cell, when VF is no coordinate. -/
def Obligations.DrawingTwiceRestoresTheFramebuffer : Prop :=
  ∀ (x y n : Nibble) (s : State), x ≠ 0xF#4 → y ≠ 0xF#4 → (n.toNat = 0 ∨ s.i.toNat + n.toNat - 1 ≤ 0xFFF) →
    ∃ t u, exec (.drw x y n) s = .next t ∧ exec (.drw x y n) t = .next u ∧ SameCells s u

/-! ### Keys and timers (spec/45_keys_timers.md) -/

/-- R160, R161: the key skips; for a register above 15 neither skips (D15); PC modulo 4096 (D7). -/
def Obligations.KeySkipsFollowTheKeyState : Prop :=
  ∀ (x : Nibble) (s : State), ∃ t u, exec (.skp x) s = .next t ∧ exec (.sknp x) s = .next u ∧
    OnlyPcChanges s t ∧ OnlyPcChanges s u ∧
    ((s.reg x).toNat > 15 → t.pc = s.pc ∧ u.pc = s.pc) ∧
    (∀ k : Fin 16, (s.reg x).toNat = k.val →
      (s.key[k.val] = true → t.pc.toNat = (s.pc.toNat + 2) % 4096 ∧ u.pc = s.pc) ∧
      (s.key[k.val] = false → t.pc = s.pc ∧ u.pc.toNat = (s.pc.toNat + 2) % 4096))

/-- R162: the wait instruction sets WAIT and WAITREG and nothing else; PC stays at the advanced value (D16). -/
def Obligations.KeyWaitOnlySetsWaitAndWaitreg : Prop :=
  ∀ (x : Nibble) (s : State), ∃ t, exec (.ldVxK x) s = .next t ∧ t.wait = true ∧ t.waitReg = x ∧
    t.halt = s.halt ∧ t.err = s.err ∧ t.diag = s.diag ∧ SameRegsBut [] s t ∧ t.i = s.i ∧ t.pc = s.pc ∧ t.draws = s.draws ∧
    SameBytes s t ∧ SameCells s t ∧ SameStack s t ∧ SameTimers s t ∧ SameKeys s t

/-- R162, R181: after the wait instruction, idle Steps and releases change no register and do not end the wait; the next press
of key k puts k into Vx and ends it, with PC where the wait left it (D16). -/
def Obligations.KeyWaitEndsWithTheNextPress : Prop :=
  ∀ (x : Nibble) (s : State) (k : Nat), s.halt = false → k < 16 → ∃ t, exec (.ldVxK x) s = .next t ∧ step t = .next t ∧
    (t.setKey k false).wait = true ∧ SameRegsBut [] s (t.setKey k false) ∧
    (t.setKey k true).wait = false ∧ ((t.setKey k true).reg x).toNat = k ∧ SameRegsBut [x] s (t.setKey k true) ∧
    (t.setKey k true).pc = s.pc

/-- R163, R164, R165: the three timer moves; the sound port is active after FX18 exactly for a value other than 0. -/
def Obligations.TimerMovesCopyDirectly : Prop :=
  (∀ (x : Nibble) (s : State), ∃ t, exec (.ldVxDt x) s = .next t ∧ t.reg x = s.dt ∧ OnlyRegsChange [x] s t) ∧
  (∀ (x : Nibble) (s : State), ∃ t, exec (.ldDtVx x) s = .next t ∧ t.dt = s.reg x ∧ t.st = s.st ∧
    SameRegsBut [] s t ∧ t.i = s.i ∧ t.pc = s.pc ∧ t.draws = s.draws ∧ SameBytes s t ∧ SameCells s t ∧ SameStack s t ∧
    SameKeys s t ∧ SameStatus s t) ∧
  (∀ (x : Nibble) (s : State), ∃ t, exec (.ldStVx x) s = .next t ∧ t.st = s.reg x ∧ t.dt = s.dt ∧
    (t.soundTimerActive = true ↔ (s.reg x).toNat ≠ 0) ∧
    SameRegsBut [] s t ∧ t.i = s.i ∧ t.pc = s.pc ∧ t.draws = s.draws ∧ SameBytes s t ∧ SameCells s t ∧ SameStack s t ∧
    SameKeys s t ∧ SameStatus s t)

/-! ### Host transactions (spec/60_exceptions.md, spec/70_reset_and_hazards.md) -/

/-- R180: each timer goes down by one unless it is 0, and nothing else changes. -/
def Obligations.TickDecrementsBothTimersDownToZero : Prop :=
  ∀ s : State, ∃ t, transactLive .tickTimers s = .next (.done, t) ∧
    t.dt.toNat = s.dt.toNat - 1 ∧ t.st.toNat = s.st.toNat - 1 ∧
    SameRegsBut [] s t ∧ t.i = s.i ∧ t.pc = s.pc ∧ t.draws = s.draws ∧ SameBytes s t ∧ SameCells s t ∧ SameStack s t ∧
    SameKeys s t ∧ SameStatus s t

/-- R181: SetKey writes the slot of an index up to 15 and no other; a press while waiting loads WAITREG and ends the wait; an
index above 15 is ignored (D17). -/
def Obligations.SetKeyWritesTheSlotAndResolvesAWait : Prop :=
  ∀ (s : State) (k : Nat) (p : Bool), ∃ t, transactLive (.setKey k p) s = .next (.done, t) ∧
    (k > 15 → t = s) ∧
    (∀ j : Fin 16, t.key[j.val] = if j.val = k then p else s.key[j.val]) ∧
    (k ≤ 15 → p = true → s.wait = true →
      t.wait = false ∧ (t.reg s.waitReg).toNat = k ∧ SameRegsBut [s.waitReg] s t) ∧
    (p = false ∨ s.wait = false → t.wait = s.wait ∧ SameRegsBut [] s t) ∧
    t.waitReg = s.waitReg ∧ t.halt = s.halt ∧ t.err = s.err ∧ t.diag = s.diag ∧ t.i = s.i ∧ t.pc = s.pc ∧
    t.draws = s.draws ∧ SameBytes s t ∧ SameCells s t ∧ SameStack s t ∧ SameTimers s t

/-- R201: a program of at most 3584 bytes is copied from 0x200 up and nothing else changes (D19); a longer one is answered
RomTooLarge with no change (D33). -/
def Obligations.LoadProgramCopiesTheBytesOrChangesNothing : Prop :=
  ∀ (s : State) (bytes : List Byte),
    (bytes.length ≤ 3584 → ∃ t, transactLive (.loadProgram bytes) s = .next (.loadOk, t) ∧
      (∀ j (h : j < bytes.length), t.mem.read (0x200 + j) = bytes[j]) ∧
      SameBytesBut (fun a => 0x200 ≤ a ∧ a < 0x200 + bytes.length) s t ∧ t = { s with mem := t.mem }) ∧
    (bytes.length > 3584 → transactLive (.loadProgram bytes) s = .next (.loadErr .romTooLarge, s))

/-- R202: the launch state of a program is the reset state with the program's bytes from 0x200 and every other byte 0. -/
def Obligations.LaunchIsResetWithTheProgramInMemory : Prop :=
  ∀ bytes : List Byte, bytes.length ≤ 3584 → ∃ t, launch bytes = .ok t ∧ t.Inv ∧ t = { State.reset with mem := t.mem } ∧
    ∀ a, t.mem.read a = if 0x200 ≤ a ∧ a < 0x200 + bytes.length then bytes.getD (a - 0x200) 0#8 else 0#8

/-- R182, R183, R184: the three read ports give the framebuffer, PC and whether ST is above 0, and change nothing. -/
def Obligations.ReadPortsChangeNothing : Prop :=
  ∀ s : State,
    (∃ fb, transactLive .readFramebuffer s = .next (.grid fb, s) ∧
      ∀ x y, Framebuffer.cell fb x y = Framebuffer.cell s.fb x y) ∧
    transactLive .readProgramCounter s = .next (.address s.pc, s) ∧
    ∃ b, transactLive .readSoundTimerActive s = .next (.active b, s) ∧ (b = true ↔ s.st.toNat > 0)

/-- R200, R35: Reset answers in every state and before the first one, and leaves every field at its reset value; memory, keys
and the status cells are D18's, D11's and D6's. Before it, every other transaction is refused (D25). -/
def Obligations.ResetZeroesTheMachineFromAnywhere : Prop :=
  AtResetValues State.reset ∧
  (∀ m : Option State, ∃ t, transact .reset m = .next (.done, t) ∧ AtResetValues t) ∧
  (∀ t : Transaction, t ≠ .reset → transact t none = .refused .beforeFirstReset)
end

