-- ==== Sys2Proof/Laws/Decode.lean ====
section
/-! SUPPORT. The fields of a word as numbers, the fields of an encoded word, and its fixed bits. -/

namespace Sys2Proof

/-! ### Fields as numbers -/

theorem opT_toNat (op : Word) : (opT op).toNat = op.toNat / 4096 := by
  have := op.isLt
  simp only [opT, BitVec.extractLsb'_toNat, Nat.shiftRight_eq_div_pow]
  omega

theorem opX_toNat (op : Word) : (opX op).toNat = op.toNat / 256 % 16 := by
  simp [opX, BitVec.extractLsb'_toNat, Nat.shiftRight_eq_div_pow]

theorem opY_toNat (op : Word) : (opY op).toNat = op.toNat / 16 % 16 := by
  simp [opY, BitVec.extractLsb'_toNat, Nat.shiftRight_eq_div_pow]

theorem opN_toNat (op : Word) : (opN op).toNat = op.toNat % 16 := by
  simp [opN, BitVec.extractLsb'_toNat]

theorem opNN_toNat (op : Word) : (opNN op).toNat = op.toNat % 256 := by
  simp [opNN, BitVec.extractLsb'_toNat]

theorem opNNN_toNat (op : Word) : (opNNN op).toNat = op.toNat % 4096 := by
  simp [opNNN, BitVec.extractLsb'_toNat]

/-- Concatenation as a number. -/
theorem toNat_append_mul {a b : Nat} (hi : BitVec a) (lo : BitVec b) :
    (hi ++ lo).toNat = hi.toNat * 2 ^ b + lo.toNat := by
  rw [BitVec.toNat_append, ← Nat.shiftLeft_add_eq_or_of_lt lo.isLt, Nat.shiftLeft_eq]

theorem formatA_toNat (t : Nibble) (nnn : Addr12) : (formatA t nnn).toNat = t.toNat * 4096 + nnn.toNat := by
  simp only [formatA, toNat_append_mul]
  omega

theorem formatXI_toNat (t x : Nibble) (nn : Byte) :
    (formatXI t x nn).toNat = t.toNat * 4096 + x.toNat * 256 + nn.toNat := by
  simp only [formatXI, toNat_append_mul]
  omega

theorem formatXY_toNat (t x y s : Nibble) :
    (formatXY t x y s).toNat = t.toNat * 4096 + x.toNat * 256 + y.toNat * 16 + s.toNat := by
  simp only [formatXY, toNat_append_mul]
  omega

theorem wordOfBytes_toNat (hi lo : Byte) : (wordOfBytes hi lo).toNat = hi.toNat * 256 + lo.toNat := by
  simp only [wordOfBytes, toNat_append_mul]
  omega

/-! ### The fields of an encoded word -/

@[simp] theorem opT_formatA (t : Nibble) (nnn : Addr12) : opT (formatA t nnn) = t :=
  BitVec.eq_of_toNat_eq (by have := nnn.isLt; rw [opT_toNat, formatA_toNat]; omega)

@[simp] theorem opNNN_formatA (t : Nibble) (nnn : Addr12) : opNNN (formatA t nnn) = nnn :=
  BitVec.eq_of_toNat_eq (by have := nnn.isLt; rw [opNNN_toNat, formatA_toNat]; omega)

@[simp] theorem opT_formatXI (t x : Nibble) (nn : Byte) : opT (formatXI t x nn) = t :=
  BitVec.eq_of_toNat_eq (by have := x.isLt; have := nn.isLt; rw [opT_toNat, formatXI_toNat]; omega)

@[simp] theorem opX_formatXI (t x : Nibble) (nn : Byte) : opX (formatXI t x nn) = x :=
  BitVec.eq_of_toNat_eq (by have := x.isLt; have := nn.isLt; rw [opX_toNat, formatXI_toNat]; omega)

@[simp] theorem opNN_formatXI (t x : Nibble) (nn : Byte) : opNN (formatXI t x nn) = nn :=
  BitVec.eq_of_toNat_eq (by have := x.isLt; have := nn.isLt; rw [opNN_toNat, formatXI_toNat]; omega)

@[simp] theorem opT_formatXY (t x y s : Nibble) : opT (formatXY t x y s) = t :=
  BitVec.eq_of_toNat_eq (by
    have := x.isLt; have := y.isLt; have := s.isLt; rw [opT_toNat, formatXY_toNat]; omega)

@[simp] theorem opX_formatXY (t x y s : Nibble) : opX (formatXY t x y s) = x :=
  BitVec.eq_of_toNat_eq (by
    have := x.isLt; have := y.isLt; have := s.isLt; rw [opX_toNat, formatXY_toNat]; omega)

@[simp] theorem opY_formatXY (t x y s : Nibble) : opY (formatXY t x y s) = y :=
  BitVec.eq_of_toNat_eq (by
    have := x.isLt; have := y.isLt; have := s.isLt; rw [opY_toNat, formatXY_toNat]; omega)

@[simp] theorem opN_formatXY (t x y s : Nibble) : opN (formatXY t x y s) = s :=
  BitVec.eq_of_toNat_eq (by
    have := x.isLt; have := y.isLt; have := s.isLt; rw [opN_toNat, formatXY_toNat]; omega)

/-! ### A word put together from its own fields -/

theorem formatA_fields (op : Word) : formatA (opT op) (opNNN op) = op :=
  BitVec.eq_of_toNat_eq (by rw [formatA_toNat, opT_toNat, opNNN_toNat]; omega)

theorem formatXI_fields (op : Word) : formatXI (opT op) (opX op) (opNN op) = op :=
  BitVec.eq_of_toNat_eq (by rw [formatXI_toNat, opT_toNat, opX_toNat, opNN_toNat]; omega)

theorem formatXY_fields (op : Word) : formatXY (opT op) (opX op) (opY op) (opN op) = op :=
  BitVec.eq_of_toNat_eq (by rw [formatXY_toNat, opT_toNat, opX_toNat, opY_toNat, opN_toNat]; omega)

/-! ### The fixed bits of a word: the four masks of the opcode map -/

theorem and_F000 (op : Word) : op &&& 0xF000#16 = formatA (opT op) 0#12 := by
  apply BitVec.eq_of_getLsbD_eq
  intro k hk
  simp only [formatA, opT, BitVec.getLsbD_and, BitVec.getLsbD_append, BitVec.getLsbD_extractLsb']
  interval_cases k <;> simp

theorem and_F00F (op : Word) : op &&& 0xF00F#16 = formatXY (opT op) 0#4 0#4 (opN op) := by
  apply BitVec.eq_of_getLsbD_eq
  intro k hk
  simp only [formatXY, opT, opN, BitVec.getLsbD_and, BitVec.getLsbD_append, BitVec.getLsbD_extractLsb']
  interval_cases k <;> simp

theorem and_F0FF (op : Word) : op &&& 0xF0FF#16 = formatXI (opT op) 0#4 (opNN op) := by
  apply BitVec.eq_of_getLsbD_eq
  intro k hk
  simp only [formatXI, opT, opNN, BitVec.getLsbD_and, BitVec.getLsbD_append, BitVec.getLsbD_extractLsb']
  interval_cases k <;> simp

theorem and_FFFF (op : Word) : op &&& 0xFFFF#16 = op := by
  have : (0xFFFF#16 : Word) = BitVec.allOnes 16 := by decide
  rw [this, BitVec.and_allOnes]

/-! ### Decoding two bytes -/

theorem decodeBytes_pair (hi lo : Byte) :
    decodeBytes [hi, lo] = (decode (wordOfBytes hi lo)).map (·, []) := rfl

end Sys2Proof
end

