-- ==== Sys2Proof/Laws/State.lean ====
section
/-! SUPPORT. One lemma per field per update of State: what each update writes and what it leaves. -/

namespace Sys2Proof.Machine

variable (s : State)

/-! ### `State.setReg` -/

@[simp] theorem State.setReg_v (x : Nibble) (b : Byte) : (s.setReg x b).v = s.v.set x.toNat b x.isLt := rfl
@[simp] theorem State.setReg_i (x : Nibble) (b : Byte) : (s.setReg x b).i = s.i := rfl
@[simp] theorem State.setReg_pc (x : Nibble) (b : Byte) : (s.setReg x b).pc = s.pc := rfl
@[simp] theorem State.setReg_sp (x : Nibble) (b : Byte) : (s.setReg x b).sp = s.sp := rfl
@[simp] theorem State.setReg_stack (x : Nibble) (b : Byte) : (s.setReg x b).stack = s.stack := rfl
@[simp] theorem State.setReg_dt (x : Nibble) (b : Byte) : (s.setReg x b).dt = s.dt := rfl
@[simp] theorem State.setReg_st (x : Nibble) (b : Byte) : (s.setReg x b).st = s.st := rfl
@[simp] theorem State.setReg_key (x : Nibble) (b : Byte) : (s.setReg x b).key = s.key := rfl
@[simp] theorem State.setReg_fb (x : Nibble) (b : Byte) : (s.setReg x b).fb = s.fb := rfl
@[simp] theorem State.setReg_mem (x : Nibble) (b : Byte) : (s.setReg x b).mem = s.mem := rfl
@[simp] theorem State.setReg_wait (x : Nibble) (b : Byte) : (s.setReg x b).wait = s.wait := rfl
@[simp] theorem State.setReg_waitReg (x : Nibble) (b : Byte) : (s.setReg x b).waitReg = s.waitReg := rfl
@[simp] theorem State.setReg_halt (x : Nibble) (b : Byte) : (s.setReg x b).halt = s.halt := rfl
@[simp] theorem State.setReg_err (x : Nibble) (b : Byte) : (s.setReg x b).err = s.err := rfl
@[simp] theorem State.setReg_diag (x : Nibble) (b : Byte) : (s.setReg x b).diag = s.diag := rfl
@[simp] theorem State.setReg_draws (x : Nibble) (b : Byte) : (s.setReg x b).draws = s.draws := rfl

/-! ### `State.setRegs` -/

@[simp] theorem State.setRegs_v (w : Vector Byte 16) : (s.setRegs w).v = w := rfl
@[simp] theorem State.setRegs_i (w : Vector Byte 16) : (s.setRegs w).i = s.i := rfl
@[simp] theorem State.setRegs_pc (w : Vector Byte 16) : (s.setRegs w).pc = s.pc := rfl
@[simp] theorem State.setRegs_sp (w : Vector Byte 16) : (s.setRegs w).sp = s.sp := rfl
@[simp] theorem State.setRegs_stack (w : Vector Byte 16) : (s.setRegs w).stack = s.stack := rfl
@[simp] theorem State.setRegs_dt (w : Vector Byte 16) : (s.setRegs w).dt = s.dt := rfl
@[simp] theorem State.setRegs_st (w : Vector Byte 16) : (s.setRegs w).st = s.st := rfl
@[simp] theorem State.setRegs_key (w : Vector Byte 16) : (s.setRegs w).key = s.key := rfl
@[simp] theorem State.setRegs_fb (w : Vector Byte 16) : (s.setRegs w).fb = s.fb := rfl
@[simp] theorem State.setRegs_mem (w : Vector Byte 16) : (s.setRegs w).mem = s.mem := rfl
@[simp] theorem State.setRegs_wait (w : Vector Byte 16) : (s.setRegs w).wait = s.wait := rfl
@[simp] theorem State.setRegs_waitReg (w : Vector Byte 16) : (s.setRegs w).waitReg = s.waitReg := rfl
@[simp] theorem State.setRegs_halt (w : Vector Byte 16) : (s.setRegs w).halt = s.halt := rfl
@[simp] theorem State.setRegs_err (w : Vector Byte 16) : (s.setRegs w).err = s.err := rfl
@[simp] theorem State.setRegs_diag (w : Vector Byte 16) : (s.setRegs w).diag = s.diag := rfl
@[simp] theorem State.setRegs_draws (w : Vector Byte 16) : (s.setRegs w).draws = s.draws := rfl

/-! ### `State.setI` -/

@[simp] theorem State.setI_v (w : Word) : (s.setI w).v = s.v := rfl
@[simp] theorem State.setI_i (w : Word) : (s.setI w).i = w := rfl
@[simp] theorem State.setI_pc (w : Word) : (s.setI w).pc = s.pc := rfl
@[simp] theorem State.setI_sp (w : Word) : (s.setI w).sp = s.sp := rfl
@[simp] theorem State.setI_stack (w : Word) : (s.setI w).stack = s.stack := rfl
@[simp] theorem State.setI_dt (w : Word) : (s.setI w).dt = s.dt := rfl
@[simp] theorem State.setI_st (w : Word) : (s.setI w).st = s.st := rfl
@[simp] theorem State.setI_key (w : Word) : (s.setI w).key = s.key := rfl
@[simp] theorem State.setI_fb (w : Word) : (s.setI w).fb = s.fb := rfl
@[simp] theorem State.setI_mem (w : Word) : (s.setI w).mem = s.mem := rfl
@[simp] theorem State.setI_wait (w : Word) : (s.setI w).wait = s.wait := rfl
@[simp] theorem State.setI_waitReg (w : Word) : (s.setI w).waitReg = s.waitReg := rfl
@[simp] theorem State.setI_halt (w : Word) : (s.setI w).halt = s.halt := rfl
@[simp] theorem State.setI_err (w : Word) : (s.setI w).err = s.err := rfl
@[simp] theorem State.setI_diag (w : Word) : (s.setI w).diag = s.diag := rfl
@[simp] theorem State.setI_draws (w : Word) : (s.setI w).draws = s.draws := rfl
@[simp] theorem State.setI_reg (w : Word) (r : Nibble) : (s.setI w).reg r = s.reg r := rfl

/-! ### `State.setPc` -/

@[simp] theorem State.setPc_v (w : Word) : (s.setPc w).v = s.v := rfl
@[simp] theorem State.setPc_i (w : Word) : (s.setPc w).i = s.i := rfl
@[simp] theorem State.setPc_pc (w : Word) : (s.setPc w).pc = w := rfl
@[simp] theorem State.setPc_sp (w : Word) : (s.setPc w).sp = s.sp := rfl
@[simp] theorem State.setPc_stack (w : Word) : (s.setPc w).stack = s.stack := rfl
@[simp] theorem State.setPc_dt (w : Word) : (s.setPc w).dt = s.dt := rfl
@[simp] theorem State.setPc_st (w : Word) : (s.setPc w).st = s.st := rfl
@[simp] theorem State.setPc_key (w : Word) : (s.setPc w).key = s.key := rfl
@[simp] theorem State.setPc_fb (w : Word) : (s.setPc w).fb = s.fb := rfl
@[simp] theorem State.setPc_mem (w : Word) : (s.setPc w).mem = s.mem := rfl
@[simp] theorem State.setPc_wait (w : Word) : (s.setPc w).wait = s.wait := rfl
@[simp] theorem State.setPc_waitReg (w : Word) : (s.setPc w).waitReg = s.waitReg := rfl
@[simp] theorem State.setPc_halt (w : Word) : (s.setPc w).halt = s.halt := rfl
@[simp] theorem State.setPc_err (w : Word) : (s.setPc w).err = s.err := rfl
@[simp] theorem State.setPc_diag (w : Word) : (s.setPc w).diag = s.diag := rfl
@[simp] theorem State.setPc_draws (w : Word) : (s.setPc w).draws = s.draws := rfl
@[simp] theorem State.setPc_reg (w : Word) (r : Nibble) : (s.setPc w).reg r = s.reg r := rfl

/-! ### `State.setStack` -/

@[simp] theorem State.setStack_v (n : Fin 17) (w : Vector Word 16) : (s.setStack n w).v = s.v := rfl
@[simp] theorem State.setStack_i (n : Fin 17) (w : Vector Word 16) : (s.setStack n w).i = s.i := rfl
@[simp] theorem State.setStack_pc (n : Fin 17) (w : Vector Word 16) : (s.setStack n w).pc = s.pc := rfl
@[simp] theorem State.setStack_sp (n : Fin 17) (w : Vector Word 16) : (s.setStack n w).sp = n := rfl
@[simp] theorem State.setStack_stack (n : Fin 17) (w : Vector Word 16) : (s.setStack n w).stack = w := rfl
@[simp] theorem State.setStack_dt (n : Fin 17) (w : Vector Word 16) : (s.setStack n w).dt = s.dt := rfl
@[simp] theorem State.setStack_st (n : Fin 17) (w : Vector Word 16) : (s.setStack n w).st = s.st := rfl
@[simp] theorem State.setStack_key (n : Fin 17) (w : Vector Word 16) : (s.setStack n w).key = s.key := rfl
@[simp] theorem State.setStack_fb (n : Fin 17) (w : Vector Word 16) : (s.setStack n w).fb = s.fb := rfl
@[simp] theorem State.setStack_mem (n : Fin 17) (w : Vector Word 16) : (s.setStack n w).mem = s.mem := rfl
@[simp] theorem State.setStack_wait (n : Fin 17) (w : Vector Word 16) : (s.setStack n w).wait = s.wait := rfl
@[simp] theorem State.setStack_waitReg (n : Fin 17) (w : Vector Word 16) : (s.setStack n w).waitReg = s.waitReg := rfl
@[simp] theorem State.setStack_halt (n : Fin 17) (w : Vector Word 16) : (s.setStack n w).halt = s.halt := rfl
@[simp] theorem State.setStack_err (n : Fin 17) (w : Vector Word 16) : (s.setStack n w).err = s.err := rfl
@[simp] theorem State.setStack_diag (n : Fin 17) (w : Vector Word 16) : (s.setStack n w).diag = s.diag := rfl
@[simp] theorem State.setStack_draws (n : Fin 17) (w : Vector Word 16) : (s.setStack n w).draws = s.draws := rfl
@[simp] theorem State.setStack_reg (n : Fin 17) (w : Vector Word 16) (r : Nibble) : (s.setStack n w).reg r = s.reg r := rfl

/-! ### `State.setDt` -/

@[simp] theorem State.setDt_v (b : Byte) : (s.setDt b).v = s.v := rfl
@[simp] theorem State.setDt_i (b : Byte) : (s.setDt b).i = s.i := rfl
@[simp] theorem State.setDt_pc (b : Byte) : (s.setDt b).pc = s.pc := rfl
@[simp] theorem State.setDt_sp (b : Byte) : (s.setDt b).sp = s.sp := rfl
@[simp] theorem State.setDt_stack (b : Byte) : (s.setDt b).stack = s.stack := rfl
@[simp] theorem State.setDt_dt (b : Byte) : (s.setDt b).dt = b := rfl
@[simp] theorem State.setDt_st (b : Byte) : (s.setDt b).st = s.st := rfl
@[simp] theorem State.setDt_key (b : Byte) : (s.setDt b).key = s.key := rfl
@[simp] theorem State.setDt_fb (b : Byte) : (s.setDt b).fb = s.fb := rfl
@[simp] theorem State.setDt_mem (b : Byte) : (s.setDt b).mem = s.mem := rfl
@[simp] theorem State.setDt_wait (b : Byte) : (s.setDt b).wait = s.wait := rfl
@[simp] theorem State.setDt_waitReg (b : Byte) : (s.setDt b).waitReg = s.waitReg := rfl
@[simp] theorem State.setDt_halt (b : Byte) : (s.setDt b).halt = s.halt := rfl
@[simp] theorem State.setDt_err (b : Byte) : (s.setDt b).err = s.err := rfl
@[simp] theorem State.setDt_diag (b : Byte) : (s.setDt b).diag = s.diag := rfl
@[simp] theorem State.setDt_draws (b : Byte) : (s.setDt b).draws = s.draws := rfl
@[simp] theorem State.setDt_reg (b : Byte) (r : Nibble) : (s.setDt b).reg r = s.reg r := rfl

/-! ### `State.setSt` -/

@[simp] theorem State.setSt_v (b : Byte) : (s.setSt b).v = s.v := rfl
@[simp] theorem State.setSt_i (b : Byte) : (s.setSt b).i = s.i := rfl
@[simp] theorem State.setSt_pc (b : Byte) : (s.setSt b).pc = s.pc := rfl
@[simp] theorem State.setSt_sp (b : Byte) : (s.setSt b).sp = s.sp := rfl
@[simp] theorem State.setSt_stack (b : Byte) : (s.setSt b).stack = s.stack := rfl
@[simp] theorem State.setSt_dt (b : Byte) : (s.setSt b).dt = s.dt := rfl
@[simp] theorem State.setSt_st (b : Byte) : (s.setSt b).st = b := rfl
@[simp] theorem State.setSt_key (b : Byte) : (s.setSt b).key = s.key := rfl
@[simp] theorem State.setSt_fb (b : Byte) : (s.setSt b).fb = s.fb := rfl
@[simp] theorem State.setSt_mem (b : Byte) : (s.setSt b).mem = s.mem := rfl
@[simp] theorem State.setSt_wait (b : Byte) : (s.setSt b).wait = s.wait := rfl
@[simp] theorem State.setSt_waitReg (b : Byte) : (s.setSt b).waitReg = s.waitReg := rfl
@[simp] theorem State.setSt_halt (b : Byte) : (s.setSt b).halt = s.halt := rfl
@[simp] theorem State.setSt_err (b : Byte) : (s.setSt b).err = s.err := rfl
@[simp] theorem State.setSt_diag (b : Byte) : (s.setSt b).diag = s.diag := rfl
@[simp] theorem State.setSt_draws (b : Byte) : (s.setSt b).draws = s.draws := rfl
@[simp] theorem State.setSt_reg (b : Byte) (r : Nibble) : (s.setSt b).reg r = s.reg r := rfl

/-! ### `State.setKeys` -/

@[simp] theorem State.setKeys_v (w : Vector Bool 16) : (s.setKeys w).v = s.v := rfl
@[simp] theorem State.setKeys_i (w : Vector Bool 16) : (s.setKeys w).i = s.i := rfl
@[simp] theorem State.setKeys_pc (w : Vector Bool 16) : (s.setKeys w).pc = s.pc := rfl
@[simp] theorem State.setKeys_sp (w : Vector Bool 16) : (s.setKeys w).sp = s.sp := rfl
@[simp] theorem State.setKeys_stack (w : Vector Bool 16) : (s.setKeys w).stack = s.stack := rfl
@[simp] theorem State.setKeys_dt (w : Vector Bool 16) : (s.setKeys w).dt = s.dt := rfl
@[simp] theorem State.setKeys_st (w : Vector Bool 16) : (s.setKeys w).st = s.st := rfl
@[simp] theorem State.setKeys_key (w : Vector Bool 16) : (s.setKeys w).key = w := rfl
@[simp] theorem State.setKeys_fb (w : Vector Bool 16) : (s.setKeys w).fb = s.fb := rfl
@[simp] theorem State.setKeys_mem (w : Vector Bool 16) : (s.setKeys w).mem = s.mem := rfl
@[simp] theorem State.setKeys_wait (w : Vector Bool 16) : (s.setKeys w).wait = s.wait := rfl
@[simp] theorem State.setKeys_waitReg (w : Vector Bool 16) : (s.setKeys w).waitReg = s.waitReg := rfl
@[simp] theorem State.setKeys_halt (w : Vector Bool 16) : (s.setKeys w).halt = s.halt := rfl
@[simp] theorem State.setKeys_err (w : Vector Bool 16) : (s.setKeys w).err = s.err := rfl
@[simp] theorem State.setKeys_diag (w : Vector Bool 16) : (s.setKeys w).diag = s.diag := rfl
@[simp] theorem State.setKeys_draws (w : Vector Bool 16) : (s.setKeys w).draws = s.draws := rfl
@[simp] theorem State.setKeys_reg (w : Vector Bool 16) (r : Nibble) : (s.setKeys w).reg r = s.reg r := rfl

/-! ### `State.setFb` -/

@[simp] theorem State.setFb_v (w : Framebuffer) : (s.setFb w).v = s.v := rfl
@[simp] theorem State.setFb_i (w : Framebuffer) : (s.setFb w).i = s.i := rfl
@[simp] theorem State.setFb_pc (w : Framebuffer) : (s.setFb w).pc = s.pc := rfl
@[simp] theorem State.setFb_sp (w : Framebuffer) : (s.setFb w).sp = s.sp := rfl
@[simp] theorem State.setFb_stack (w : Framebuffer) : (s.setFb w).stack = s.stack := rfl
@[simp] theorem State.setFb_dt (w : Framebuffer) : (s.setFb w).dt = s.dt := rfl
@[simp] theorem State.setFb_st (w : Framebuffer) : (s.setFb w).st = s.st := rfl
@[simp] theorem State.setFb_key (w : Framebuffer) : (s.setFb w).key = s.key := rfl
@[simp] theorem State.setFb_fb (w : Framebuffer) : (s.setFb w).fb = w := rfl
@[simp] theorem State.setFb_mem (w : Framebuffer) : (s.setFb w).mem = s.mem := rfl
@[simp] theorem State.setFb_wait (w : Framebuffer) : (s.setFb w).wait = s.wait := rfl
@[simp] theorem State.setFb_waitReg (w : Framebuffer) : (s.setFb w).waitReg = s.waitReg := rfl
@[simp] theorem State.setFb_halt (w : Framebuffer) : (s.setFb w).halt = s.halt := rfl
@[simp] theorem State.setFb_err (w : Framebuffer) : (s.setFb w).err = s.err := rfl
@[simp] theorem State.setFb_diag (w : Framebuffer) : (s.setFb w).diag = s.diag := rfl
@[simp] theorem State.setFb_draws (w : Framebuffer) : (s.setFb w).draws = s.draws := rfl
@[simp] theorem State.setFb_reg (w : Framebuffer) (r : Nibble) : (s.setFb w).reg r = s.reg r := rfl

/-! ### `State.setMem` -/

@[simp] theorem State.setMem_v (m : Memory) : (s.setMem m).v = s.v := rfl
@[simp] theorem State.setMem_i (m : Memory) : (s.setMem m).i = s.i := rfl
@[simp] theorem State.setMem_pc (m : Memory) : (s.setMem m).pc = s.pc := rfl
@[simp] theorem State.setMem_sp (m : Memory) : (s.setMem m).sp = s.sp := rfl
@[simp] theorem State.setMem_stack (m : Memory) : (s.setMem m).stack = s.stack := rfl
@[simp] theorem State.setMem_dt (m : Memory) : (s.setMem m).dt = s.dt := rfl
@[simp] theorem State.setMem_st (m : Memory) : (s.setMem m).st = s.st := rfl
@[simp] theorem State.setMem_key (m : Memory) : (s.setMem m).key = s.key := rfl
@[simp] theorem State.setMem_fb (m : Memory) : (s.setMem m).fb = s.fb := rfl
@[simp] theorem State.setMem_mem (m : Memory) : (s.setMem m).mem = m := rfl
@[simp] theorem State.setMem_wait (m : Memory) : (s.setMem m).wait = s.wait := rfl
@[simp] theorem State.setMem_waitReg (m : Memory) : (s.setMem m).waitReg = s.waitReg := rfl
@[simp] theorem State.setMem_halt (m : Memory) : (s.setMem m).halt = s.halt := rfl
@[simp] theorem State.setMem_err (m : Memory) : (s.setMem m).err = s.err := rfl
@[simp] theorem State.setMem_diag (m : Memory) : (s.setMem m).diag = s.diag := rfl
@[simp] theorem State.setMem_draws (m : Memory) : (s.setMem m).draws = s.draws := rfl
@[simp] theorem State.setMem_reg (m : Memory) (r : Nibble) : (s.setMem m).reg r = s.reg r := rfl

/-! ### `State.setWait` -/

@[simp] theorem State.setWait_v (b : Bool) (x : Nibble) : (s.setWait b x).v = s.v := rfl
@[simp] theorem State.setWait_i (b : Bool) (x : Nibble) : (s.setWait b x).i = s.i := rfl
@[simp] theorem State.setWait_pc (b : Bool) (x : Nibble) : (s.setWait b x).pc = s.pc := rfl
@[simp] theorem State.setWait_sp (b : Bool) (x : Nibble) : (s.setWait b x).sp = s.sp := rfl
@[simp] theorem State.setWait_stack (b : Bool) (x : Nibble) : (s.setWait b x).stack = s.stack := rfl
@[simp] theorem State.setWait_dt (b : Bool) (x : Nibble) : (s.setWait b x).dt = s.dt := rfl
@[simp] theorem State.setWait_st (b : Bool) (x : Nibble) : (s.setWait b x).st = s.st := rfl
@[simp] theorem State.setWait_key (b : Bool) (x : Nibble) : (s.setWait b x).key = s.key := rfl
@[simp] theorem State.setWait_fb (b : Bool) (x : Nibble) : (s.setWait b x).fb = s.fb := rfl
@[simp] theorem State.setWait_mem (b : Bool) (x : Nibble) : (s.setWait b x).mem = s.mem := rfl
@[simp] theorem State.setWait_wait (b : Bool) (x : Nibble) : (s.setWait b x).wait = b := rfl
@[simp] theorem State.setWait_waitReg (b : Bool) (x : Nibble) : (s.setWait b x).waitReg = x := rfl
@[simp] theorem State.setWait_halt (b : Bool) (x : Nibble) : (s.setWait b x).halt = s.halt := rfl
@[simp] theorem State.setWait_err (b : Bool) (x : Nibble) : (s.setWait b x).err = s.err := rfl
@[simp] theorem State.setWait_diag (b : Bool) (x : Nibble) : (s.setWait b x).diag = s.diag := rfl
@[simp] theorem State.setWait_draws (b : Bool) (x : Nibble) : (s.setWait b x).draws = s.draws := rfl
@[simp] theorem State.setWait_reg (b : Bool) (x : Nibble) (r : Nibble) : (s.setWait b x).reg r = s.reg r := rfl

/-! ### `State.setHalt` -/

@[simp] theorem State.setHalt_v (b : Bool) (e : ExecError) : (s.setHalt b e).v = s.v := rfl
@[simp] theorem State.setHalt_i (b : Bool) (e : ExecError) : (s.setHalt b e).i = s.i := rfl
@[simp] theorem State.setHalt_pc (b : Bool) (e : ExecError) : (s.setHalt b e).pc = s.pc := rfl
@[simp] theorem State.setHalt_sp (b : Bool) (e : ExecError) : (s.setHalt b e).sp = s.sp := rfl
@[simp] theorem State.setHalt_stack (b : Bool) (e : ExecError) : (s.setHalt b e).stack = s.stack := rfl
@[simp] theorem State.setHalt_dt (b : Bool) (e : ExecError) : (s.setHalt b e).dt = s.dt := rfl
@[simp] theorem State.setHalt_st (b : Bool) (e : ExecError) : (s.setHalt b e).st = s.st := rfl
@[simp] theorem State.setHalt_key (b : Bool) (e : ExecError) : (s.setHalt b e).key = s.key := rfl
@[simp] theorem State.setHalt_fb (b : Bool) (e : ExecError) : (s.setHalt b e).fb = s.fb := rfl
@[simp] theorem State.setHalt_mem (b : Bool) (e : ExecError) : (s.setHalt b e).mem = s.mem := rfl
@[simp] theorem State.setHalt_wait (b : Bool) (e : ExecError) : (s.setHalt b e).wait = s.wait := rfl
@[simp] theorem State.setHalt_waitReg (b : Bool) (e : ExecError) : (s.setHalt b e).waitReg = s.waitReg := rfl
@[simp] theorem State.setHalt_halt (b : Bool) (e : ExecError) : (s.setHalt b e).halt = b := rfl
@[simp] theorem State.setHalt_err (b : Bool) (e : ExecError) : (s.setHalt b e).err = e := rfl
@[simp] theorem State.setHalt_diag (b : Bool) (e : ExecError) : (s.setHalt b e).diag = s.diag := rfl
@[simp] theorem State.setHalt_draws (b : Bool) (e : ExecError) : (s.setHalt b e).draws = s.draws := rfl
@[simp] theorem State.setHalt_reg (b : Bool) (e : ExecError) (r : Nibble) : (s.setHalt b e).reg r = s.reg r := rfl

/-! ### `State.setDiag` -/

@[simp] theorem State.setDiag_v (b : Bool) : (s.setDiag b).v = s.v := rfl
@[simp] theorem State.setDiag_i (b : Bool) : (s.setDiag b).i = s.i := rfl
@[simp] theorem State.setDiag_pc (b : Bool) : (s.setDiag b).pc = s.pc := rfl
@[simp] theorem State.setDiag_sp (b : Bool) : (s.setDiag b).sp = s.sp := rfl
@[simp] theorem State.setDiag_stack (b : Bool) : (s.setDiag b).stack = s.stack := rfl
@[simp] theorem State.setDiag_dt (b : Bool) : (s.setDiag b).dt = s.dt := rfl
@[simp] theorem State.setDiag_st (b : Bool) : (s.setDiag b).st = s.st := rfl
@[simp] theorem State.setDiag_key (b : Bool) : (s.setDiag b).key = s.key := rfl
@[simp] theorem State.setDiag_fb (b : Bool) : (s.setDiag b).fb = s.fb := rfl
@[simp] theorem State.setDiag_mem (b : Bool) : (s.setDiag b).mem = s.mem := rfl
@[simp] theorem State.setDiag_wait (b : Bool) : (s.setDiag b).wait = s.wait := rfl
@[simp] theorem State.setDiag_waitReg (b : Bool) : (s.setDiag b).waitReg = s.waitReg := rfl
@[simp] theorem State.setDiag_halt (b : Bool) : (s.setDiag b).halt = s.halt := rfl
@[simp] theorem State.setDiag_err (b : Bool) : (s.setDiag b).err = s.err := rfl
@[simp] theorem State.setDiag_diag (b : Bool) : (s.setDiag b).diag = b := rfl
@[simp] theorem State.setDiag_draws (b : Bool) : (s.setDiag b).draws = s.draws := rfl
@[simp] theorem State.setDiag_reg (b : Bool) (r : Nibble) : (s.setDiag b).reg r = s.reg r := rfl

/-! ### `State.setDraws` -/

@[simp] theorem State.setDraws_v (n : Nat) : (s.setDraws n).v = s.v := rfl
@[simp] theorem State.setDraws_i (n : Nat) : (s.setDraws n).i = s.i := rfl
@[simp] theorem State.setDraws_pc (n : Nat) : (s.setDraws n).pc = s.pc := rfl
@[simp] theorem State.setDraws_sp (n : Nat) : (s.setDraws n).sp = s.sp := rfl
@[simp] theorem State.setDraws_stack (n : Nat) : (s.setDraws n).stack = s.stack := rfl
@[simp] theorem State.setDraws_dt (n : Nat) : (s.setDraws n).dt = s.dt := rfl
@[simp] theorem State.setDraws_st (n : Nat) : (s.setDraws n).st = s.st := rfl
@[simp] theorem State.setDraws_key (n : Nat) : (s.setDraws n).key = s.key := rfl
@[simp] theorem State.setDraws_fb (n : Nat) : (s.setDraws n).fb = s.fb := rfl
@[simp] theorem State.setDraws_mem (n : Nat) : (s.setDraws n).mem = s.mem := rfl
@[simp] theorem State.setDraws_wait (n : Nat) : (s.setDraws n).wait = s.wait := rfl
@[simp] theorem State.setDraws_waitReg (n : Nat) : (s.setDraws n).waitReg = s.waitReg := rfl
@[simp] theorem State.setDraws_halt (n : Nat) : (s.setDraws n).halt = s.halt := rfl
@[simp] theorem State.setDraws_err (n : Nat) : (s.setDraws n).err = s.err := rfl
@[simp] theorem State.setDraws_diag (n : Nat) : (s.setDraws n).diag = s.diag := rfl
@[simp] theorem State.setDraws_draws (n : Nat) : (s.setDraws n).draws = n := rfl
@[simp] theorem State.setDraws_reg (n : Nat) (r : Nibble) : (s.setDraws n).reg r = s.reg r := rfl

/-! ### Reading a register after writing one -/

theorem State.reg_setReg (x r : Nibble) (b : Byte) : (s.setReg x b).reg r = if r = x then b else s.reg r := by
  have h : (x.toNat = r.toNat) = (r = x) := by
    rw [eq_comm (a := x.toNat), ← BitVec.toNat_inj]
  simp only [State.reg, State.setReg_v, Vector.getElem_set, h]

theorem State.reg_setReg_same (x : Nibble) (b : Byte) : (s.setReg x b).reg x = b := by
  rw [State.reg_setReg, if_pos rfl]

theorem State.reg_setReg_ne (x r : Nibble) (b : Byte) (h : r ≠ x) : (s.setReg x b).reg r = s.reg r := by
  rw [State.reg_setReg, if_neg h]

end Sys2Proof.Machine
end

