-- ==== Sys2Proof/Laws/Ops.lean ====
section
/-! SUPPORT. What each shared operation does, said once. -/

namespace Sys2Proof.Machine

/-! ### Address arithmetic -/

theorem wrap12_toNat (n : Nat) : (wrap12 n).toNat = n % 4096 := by
  simp only [wrap12, Config.memSize, BitVec.toNat_ofNat]
  omega

theorem wrap12_le (n : Nat) : (wrap12 n).toNat ≤ Config.maxAddr := by
  rw [wrap12_toNat]
  simp only [Config.maxAddr]
  omega

/-- Reducing an address in range changes nothing. -/
theorem wrap12_self (w : Word) (h : w.toNat ≤ Config.maxAddr) : wrap12 w.toNat = w := by
  apply BitVec.eq_of_toNat_eq
  rw [wrap12_toNat]
  simp only [Config.maxAddr] at h
  omega

theorem addrWord_toNat (nnn : Addr12) : (addrWord nnn).toNat = nnn.toNat := by
  have := nnn.isLt
  simp only [addrWord, BitVec.zeroExtend, BitVec.toNat_setWidth]
  omega

theorem addrWord_le (nnn : Addr12) : (addrWord nnn).toNat ≤ Config.maxAddr := by
  have := nnn.isLt
  rw [addrWord_toNat]
  simp only [Config.maxAddr]
  omega

/-! ### Copying bytes into memory -/

theorem Memory.read_copyIn (bs : List Byte) (m : Memory) (a a' : Nat) :
    (m.copyIn a bs).read a' = if a ≤ a' ∧ a' < a + bs.length then bs.getD (a' - a) 0#8 else m.read a' := by
  induction bs generalizing m a with
  | nil => simp [Memory.copyIn]
  | cons b bs ih =>
    simp only [Memory.copyIn, ih, Memory.read_write, List.length_cons]
    by_cases h1 : a' = a
    · subst h1
      simp
    · by_cases h2 : a + 1 ≤ a' ∧ a' < a + 1 + bs.length
      · rw [if_pos h2, if_pos (by omega), show a' - a = (a' - (a + 1)) + 1 by omega, List.getD_cons_succ]
      · rw [if_neg h2, if_neg h1, if_neg (by omega)]

theorem Memory.wf_copyIn (bs : List Byte) (m : Memory) (a : Nat) (h : m.wf) : (m.copyIn a bs).wf := by
  induction bs generalizing m a with
  | nil => exact h
  | cons b bs ih => exact ih _ _ (Memory.wf_write m a b h)

theorem Memory.inRange_copyIn (bs : List Byte) (m : Memory) (a : Nat) (h : m.inRange)
    (ha : a + bs.length ≤ Config.memSize) : (m.copyIn a bs).inRange := by
  induction bs generalizing m a with
  | nil => exact h
  | cons b bs ih =>
    simp only [List.length_cons, Config.memSize] at ha
    refine ih _ _ (Memory.inRange_write m a b h ?_) ?_
    · simp only [Config.maxAddr]
      omega
    · simp only [Config.memSize]
      omega

/-! ### Accesses with their bounds -/

/-- A block read gives every byte, or the error when its largest address is above 0xFFF. -/
theorem State.readBytes_eq (s : State) (a n : Nat) :
    s.readBytes a n =
      if n = 0 ∨ a + n ≤ Config.memSize then .ok ((List.range n).map fun k => s.mem.read (a + k))
      else .error .outOfBoundsAddress := by
  induction n generalizing a with
  | zero => simp [State.readBytes]
  | succ n ih =>
    simp only [State.readBytes, State.memRead, ih, Config.memSize, Config.maxAddr]
    by_cases h1 : a ≤ 0xFFF
    · simp only [h1, if_true]
      by_cases h2 : n = 0 ∨ a + 1 + n ≤ 4096
      · rw [if_pos h2, if_pos (by omega), List.range_succ_eq_map, List.map_cons, List.map_map]
        have hf : ((fun k => s.mem.read (a + k)) ∘ Nat.succ) = fun k => s.mem.read (a + 1 + k) :=
          funext fun k => congrArg s.mem.read (show a + (k + 1) = a + 1 + k by omega)
        rw [hf]
        rfl
      · rw [if_neg h2, if_neg (by omega)]
    · simp only [h1, if_false]
      rw [if_neg (by omega)]

/-- A block write stores every byte, or gives the error and no state when its largest address is above 0xFFF. -/
theorem State.writeBytes_eq (s : State) (a : Nat) (bs : List Byte) :
    s.writeBytes a bs =
      if bs = [] ∨ a + bs.length ≤ Config.memSize then .ok (s.setMem (s.mem.copyIn a bs))
      else .error .outOfBoundsAddress := by
  induction bs generalizing s a with
  | nil => simp [State.writeBytes, Memory.copyIn, State.setMem]
  | cons b bs ih =>
    simp only [State.writeBytes, State.memWrite, Config.memSize, Config.maxAddr]
    by_cases h1 : a ≤ 0xFFF
    · simp only [h1, if_true, ih, Config.memSize, Memory.copyIn, State.setMem_mem, List.length_cons]
      by_cases h2 : bs = [] ∨ a + 1 + bs.length ≤ 4096
      · have h3 : bs.length = 0 ∨ a + 1 + bs.length ≤ 4096 := h2.imp_left (by rintro rfl; rfl)
        rw [if_pos h2, if_pos (by right; omega)]
        rfl
      · have h3 : ¬ (bs.length = 0 ∨ a + 1 + bs.length ≤ 4096) := fun h =>
          h2 (h.imp_left List.length_eq_zero_iff.1)
        rw [if_neg h2, if_neg (by simp; omega)]
    · simp only [h1, if_false]
      rw [if_neg (by simp; omega)]

/-- Where PC is in range the fetch gives the bytes at PC and `(PC + 1) mod 4096`. -/
theorem State.fetchWord_eq (s : State) (h : s.pc.toNat ≤ Config.maxAddr) :
    s.fetchWord = .ok (s.mem.read s.pc.toNat, s.mem.read ((s.pc.toNat + 1) % Config.memSize)) := by
  have h2 : (s.pc.toNat + 1) % Config.memSize ≤ Config.maxAddr := by
    simp only [Config.memSize, Config.maxAddr]
    omega
  simp only [State.fetchWord, State.memRead, h, h2, if_true]

/-! ### Call stack -/

/-- A push on a stack that is not full. -/
theorem State.push_ok (s : State) (w : Word) (h : s.sp.val < Config.stackDepth) :
    s.push w = .ok (s.setStack (Fin.succ ⟨s.sp.val, h⟩) (s.stack.set s.sp.val w h)) := by
  simp only [State.push, Nat.ne_of_lt h, dite_false]

theorem State.push_full (s : State) (w : Word) (h : s.sp.val = Config.stackDepth) : s.push w = .error .stackOverflow := by
  simp only [State.push, h, dite_true]

/-- A pop of a stack that is not empty. -/
theorem State.pop_ok (s : State) (k : Fin 16) (h : s.sp = k.succ) :
    s.pop = .ok (s.stack[k.val], s.setStack k.castSucc s.stack) := by
  simp [State.pop, h]

theorem State.pop_empty (s : State) (h : s.sp.val = 0) : s.pop = .error .stackUnderflow := by
  simp only [State.pop, h, dite_true]

/-! ### Blocks of registers -/

theorem State.regsUpTo_length (s : State) (x : Nibble) : (s.regsUpTo x).length = x.toNat + 1 := by
  have := x.isLt
  simp only [State.regsUpTo, List.length_take, Vector.length_toList]
  omega

theorem State.regsUpTo_getD (s : State) (x r : Nibble) (h : r.toNat ≤ x.toNat) :
    (s.regsUpTo x).getD r.toNat 0#8 = s.reg r := by
  have hr := r.isLt
  have hl := s.regsUpTo_length x
  rw [List.getD_eq_getElem _ _ (by omega)]
  simp [State.regsUpTo, State.reg]

/-- Loading a block of registers writes exactly the registers it covers. -/
theorem loadRegs_getElem (bs : List Byte) (k : Nat) (v : Vector Byte 16) (j : Nat) (hj : j < 16) :
    (loadRegs k bs v)[j] = if k ≤ j ∧ j < k + bs.length then bs.getD (j - k) 0#8 else v[j] := by
  induction bs generalizing k v with
  | nil => simp [loadRegs]
  | cons b bs ih =>
    simp only [loadRegs, ih, List.length_cons, Vector.getElem_setIfInBounds]
    by_cases h1 : k = j
    · subst h1
      simp
    · by_cases h2 : k + 1 ≤ j ∧ j < k + 1 + bs.length
      · rw [if_pos h2, if_pos (by omega), show j - k = (j - (k + 1)) + 1 by omega, List.getD_cons_succ]
      · rw [if_neg h2, if_neg h1, if_neg (by omega)]

/-! ### Framebuffer -/

theorem Framebuffer.cell_setCell (fb : Framebuffer) (x x' : Fin 64) (y y' : Fin 32) (b : Bool) :
    Framebuffer.cell (Framebuffer.setCell fb x y b) x' y' =
      if x' = x ∧ y' = y then b else Framebuffer.cell fb x' y' := by
  simp only [Framebuffer.cell, Framebuffer.setCell, Vector.getElem_set, Fin.ext_iff]
  by_cases hx : x.val = x'.val
  · by_cases hy : y.val = y'.val
    · simp [hx, hy]
    · simp [hx, hy, Ne.symm hy]
  · simp [hx, Ne.symm hx]

theorem Framebuffer.cell_clear (x : Fin 64) (y : Fin 32) : Framebuffer.cell Framebuffer.clear x y = false := by
  simp [Framebuffer.cell, Framebuffer.clear]

theorem drawPixel_cell (p : Canvas) (x x' : Fin 64) (y y' : Fin 32) :
    Framebuffer.cell (drawPixel p x y).1 x' y' =
      if x' = x ∧ y' = y then !Framebuffer.cell p.1 x y else Framebuffer.cell p.1 x' y' := by
  simp only [drawPixel, Framebuffer.cell_setCell]

/-- Column `col` of a sprite row falls on cell column `x`. -/
def ColumnAt (b : Byte) (vx : Nat) (col : Nat) (x : Fin 64) : Prop :=
  b.getLsbD (7 - col) = true ∧ x.val = (vx + col) % 64

theorem columnAt_iff (b : Byte) (vx col : Nat) (x : Fin 64) :
    ColumnAt b vx col x ↔ b.getLsbD (7 - col) = true ∧ x = Fin.ofNat 64 (vx + col) := by
  simp only [ColumnAt, Fin.ext_iff, Fin.ofNat]

/-- Drawing some columns of a row, each at most once: the covered cells of line `y` flip, no other cell changes, and a
collision is recorded exactly when a covered cell was on. -/
theorem drawColumns_spec (b : Byte) (vx : Nat) (y : Fin 32) (cols : List Nat) (hn : cols.Nodup) (hc : ∀ c ∈ cols, c < 8)
    (p : Canvas) (q : Canvas)
    (hq : q = cols.foldl (fun q col => if b.getLsbD (7 - col) then drawPixel q (Fin.ofNat 64 (vx + col)) y else q) p) :
    (∀ x', (∃ c ∈ cols, ColumnAt b vx c x') → Framebuffer.cell q.1 x' y = !Framebuffer.cell p.1 x' y) ∧
    (∀ x' y', ¬ (y' = y ∧ ∃ c ∈ cols, ColumnAt b vx c x') → Framebuffer.cell q.1 x' y' = Framebuffer.cell p.1 x' y') ∧
    (q.2 = true ↔ p.2 = true ∨ ∃ x', (∃ c ∈ cols, ColumnAt b vx c x') ∧ Framebuffer.cell p.1 x' y = true) := by
  induction cols generalizing p with
  | nil => subst hq; simp
  | cons c cols ih =>
    obtain ⟨hcn, hn'⟩ := List.nodup_cons.1 hn
    have hc8 := hc c (by simp)
    have hc' : ∀ d ∈ cols, d < 8 := fun d hd => hc d (List.mem_cons_of_mem _ hd)
    rw [List.foldl_cons] at hq
    by_cases hb : b.getLsbD (7 - c) = true
    · rw [if_pos hb] at hq
      obtain ⟨h1, h2, h3⟩ := ih hn' hc' _ hq
      set xc : Fin 64 := Fin.ofNat 64 (vx + c) with hxc
      have hat : ∀ x', ColumnAt b vx c x' ↔ x' = xc := fun x' => by rw [columnAt_iff]; simp [hb, hxc]
      have hapart : ∀ x', (∃ d ∈ cols, ColumnAt b vx d x') → x' ≠ xc := by
        rintro x' ⟨d, hd, hx⟩ he
        have hd8 := hc' d hd
        have hne : d ≠ c := fun h => hcn (h ▸ hd)
        have e1 := hx.2
        have e2 := ((hat x').2 he).2
        omega
      have hsplit : ∀ x', (∃ d ∈ c :: cols, ColumnAt b vx d x') ↔ x' = xc ∨ ∃ d ∈ cols, ColumnAt b vx d x' := fun x' => by
        simp [hat]
      refine ⟨fun x' hx => ?_, fun x' y' hx => ?_, ?_⟩
      · rcases (hsplit x').1 hx with rfl | hx
        · rw [h2 _ _ (fun h => hapart _ h.2 rfl), drawPixel_cell, if_pos ⟨rfl, rfl⟩]
        · rw [h1 _ hx, drawPixel_cell, if_neg (fun h => hapart _ hx h.1)]
      · rw [hsplit] at hx
        rw [h2 _ _ (fun h => hx ⟨h.1, .inr h.2⟩), drawPixel_cell, if_neg (fun h => hx ⟨h.2, .inl h.1⟩)]
      · rw [h3]
        simp only [drawPixel, Framebuffer.cell_setCell, Bool.or_eq_true]
        constructor
        · rintro ((h | h) | ⟨x', hx, h⟩)
          · exact .inl h
          · exact .inr ⟨xc, (hsplit _).2 (.inl rfl), h⟩
          · rw [if_neg (fun e => hapart _ hx e.1)] at h
            exact .inr ⟨x', (hsplit _).2 (.inr hx), h⟩
        · rintro (h | ⟨x', hx, h⟩)
          · exact .inl (.inl h)
          · rcases (hsplit x').1 hx with rfl | hx
            · exact .inl (.inr h)
            · refine .inr ⟨x', hx, ?_⟩
              rw [if_neg (fun e => hapart _ hx e.1)]
              exact h
    · rw [if_neg hb] at hq
      obtain ⟨h1, h2, h3⟩ := ih hn' hc' _ hq
      have hsplit : ∀ x', (∃ d ∈ c :: cols, ColumnAt b vx d x') ↔ ∃ d ∈ cols, ColumnAt b vx d x' := fun x' => by
        simp [ColumnAt, hb]
      simp only [hsplit]
      exact ⟨h1, h2, h3⟩

/-- The cell `(x, y)` is covered by a set bit of a sprite whose rows are `rows` and whose top left corner is `(vx, vy)`. -/
def CoveredBy (rows : List Byte) (vx vy : Nat) (x : Fin 64) (y : Fin 32) : Prop :=
  ∃ row < rows.length, ∃ col < 8, ColumnAt (rows.getD row 0#8) vx col x ∧ y.val = (vy + row) % 32

/-- What drawing a sprite of at most 32 rows does: covered cells flip, no other cell changes, and a collision is recorded
exactly when a covered cell was on. -/
theorem drawRows_spec (rows : List Byte) (vx vy : Nat) (hr : rows.length ≤ 32) (p : Canvas) :
    (∀ x y, CoveredBy rows vx vy x y →
      Framebuffer.cell (drawRows rows vx vy p).1 x y = !Framebuffer.cell p.1 x y) ∧
    (∀ x y, ¬ CoveredBy rows vx vy x y →
      Framebuffer.cell (drawRows rows vx vy p).1 x y = Framebuffer.cell p.1 x y) ∧
    ((drawRows rows vx vy p).2 = true ↔
      p.2 = true ∨ ∃ x y, CoveredBy rows vx vy x y ∧ Framebuffer.cell p.1 x y = true) := by
  induction rows generalizing vy p with
  | nil => simp [drawRows, CoveredBy]
  | cons b rows ih =>
    simp only [List.length_cons] at hr
    obtain ⟨h1, h2, h3⟩ := ih (vy + 1) (by omega) (drawRow b vx (Fin.ofNat 32 vy) p)
    set y0 : Fin 32 := Fin.ofNat 32 vy with hy0
    have hy0v : y0.val = vy % 32 := by simp [hy0, Fin.ofNat]
    obtain ⟨g1, g2, g3⟩ := drawColumns_spec b vx y0 (List.range 8) List.nodup_range (by simp) p _ rfl
    have hrow : ∀ x, (∃ c ∈ List.range 8, ColumnAt b vx c x) ↔ ∃ c < 8, ColumnAt b vx c x := fun x => by simp
    simp only [hrow] at g1 g2 g3
    have hsplit : ∀ x y, CoveredBy (b :: rows) vx vy x y ↔
        (y = y0 ∧ ∃ c < 8, ColumnAt b vx c x) ∨ CoveredBy rows vx (vy + 1) x y := by
      intro x y
      constructor
      · rintro ⟨row, hrl, col, hcl, hx, hy⟩
        cases row with
        | zero => exact .inl ⟨Fin.ext (by omega), col, hcl, hx⟩
        | succ row =>
          simp only [List.length_cons] at hrl
          exact .inr ⟨row, by omega, col, hcl, by simpa using hx, by omega⟩
      · rintro (⟨rfl, col, hcl, hx⟩ | ⟨row, hrl, col, hcl, hx, hy⟩)
        · exact ⟨0, by simp, col, hcl, by simpa using hx, by omega⟩
        · exact ⟨row + 1, by simp; omega, col, hcl, by simpa using hx, by omega⟩
    have hapart : ∀ x y, CoveredBy rows vx (vy + 1) x y → y ≠ y0 := by
      rintro x y ⟨row, hrl, col, hcl, hx, hy⟩ rfl
      omega
    have hd : ∀ q, drawRows (b :: rows) vx vy q = drawRows rows vx (vy + 1) (drawRow b vx y0 q) := fun _ => rfl
    simp only [hd]
    refine ⟨fun x y hx => ?_, fun x y hx => ?_, ?_⟩
    · rcases (hsplit x y).1 hx with ⟨rfl, hc⟩ | hx
      · rw [h2 _ _ (fun h => hapart _ _ h rfl)]
        exact g1 x hc
      · rw [h1 _ _ hx]
        exact congrArg _ (g2 x y (fun h => hapart _ _ hx h.1))
    · rw [hsplit] at hx
      rw [h2 _ _ (fun h => hx (.inr h))]
      exact g2 x y (fun h => hx (.inl h))
    · rw [h3]
      have g3' : (drawRow b vx y0 p).2 = true ↔ _ := g3
      rw [g3']
      constructor
      · rintro ((h | ⟨x, hx, h⟩) | ⟨x, y, hx, h⟩)
        · exact .inl h
        · exact .inr ⟨x, y0, (hsplit _ _).2 (.inl ⟨rfl, hx⟩), h⟩
        · refine .inr ⟨x, y, (hsplit _ _).2 (.inr hx), ?_⟩
          rw [← g2 x y (fun e => hapart _ _ hx e.1)]
          exact h
      · rintro (h | ⟨x, y, hx, h⟩)
        · exact .inl (.inl h)
        · rcases (hsplit x y).1 hx with ⟨rfl, hc⟩ | hx
          · exact .inl (.inr ⟨x, hc, h⟩)
          · refine .inr ⟨x, y, hx, ?_⟩
            have := g2 x y (fun e => hapart _ _ hx e.1)
            exact this.trans h

end Sys2Proof.Machine
end

