-- ==== Sys2Proof/Laws/Exec.lean ====
section
/-! SUPPORT. The meanings that can raise an error or skip, each as one choice between next states. -/

namespace Sys2Proof.Machine

/-- A skip writes PC and nothing else. -/
theorem State.skipIf_eq (s : State) (c : Bool) :
    s.skipIf c = s.setPc (if c then wrap12 (s.pc.toNat + 2) else s.pc) := by
  cases c <;> rfl

/-- RET: the error on an empty stack, else the pop. -/
theorem execRet_eq (s : State) :
    execRet s =
      if _h : s.sp.val = 0 then .next (s.setHalt true .stackUnderflow)
      else
        .next ((s.setStack (Fin.castSucc ⟨s.sp.val - 1, by have := s.sp.isLt; omega⟩) s.stack).setPc
          (s.stack[s.sp.val - 1]'(by have := s.sp.isLt; omega))) := by
  simp only [execRet, State.pop, raise]
  split_ifs <;> rfl

/-- CALL: the error on a full stack, else the push and the jump. -/
theorem execCall_eq (nnn : Addr12) (s : State) :
    execCall nnn s =
      if h : s.sp.val < Config.stackDepth then
        .next ((s.setStack (Fin.succ ⟨s.sp.val, h⟩) (s.stack.set s.sp.val s.pc h)).setPc (addrWord nnn))
      else .next (s.setHalt true .stackOverflow) := by
  by_cases h : s.sp.val < Config.stackDepth
  · simp only [execCall, State.push_ok s _ h, h, dite_true]
  · have hf : s.sp.val = Config.stackDepth := by
      have := s.sp.isLt
      simp only [Config.stackDepth] at h ⊢
      omega
    simp only [execCall, State.push_full s _ hf, h, dite_false, raise]

/-- FX33: the three stores, or the error. -/
theorem execLdB_eq (x : Nibble) (s : State) :
    execLdB x s =
      if s.i.toNat + 2 ≤ Config.maxAddr then
        .next (s.setMem (s.mem.copyIn s.i.toNat (bcdDigits (s.reg x))))
      else .next (s.setHalt true .outOfBoundsAddress) := by
  simp only [execLdB, State.writeBytes_eq, Config.memSize, Config.maxAddr, raise]
  by_cases h : s.i.toNat + 2 ≤ 0xFFF
  · rw [if_pos h, if_pos (by simp [bcdDigits]; omega)]
  · rw [if_neg h, if_neg (by simp [bcdDigits]; omega)]

/-- FX55: the stores and the advance of I, or the error. -/
theorem execLdMemVx_eq (x : Nibble) (s : State) :
    execLdMemVx x s =
      if s.i.toNat + x.toNat ≤ Config.maxAddr then
        .next ((s.setMem (s.mem.copyIn s.i.toNat (s.regsUpTo x))).advanceI s.i x)
      else .next (s.setHalt true .outOfBoundsAddress) := by
  have hl := s.regsUpTo_length x
  have hne : s.regsUpTo x ≠ [] := fun h => by simp [h] at hl
  simp only [execLdMemVx, State.writeBytes_eq, Config.memSize, Config.maxAddr, raise]
  by_cases h : s.i.toNat + x.toNat ≤ 0xFFF
  · rw [if_pos h, if_pos (.inr (by omega))]
  · rw [if_neg h, if_neg (by simp only [hne, false_or]; omega)]

/-- FX65: the loads and the advance of I, or the error. -/
theorem execLdVxMem_eq (x : Nibble) (s : State) :
    execLdVxMem x s =
      if s.i.toNat + x.toNat ≤ Config.maxAddr then
        .next ((s.setRegs (loadRegs 0 ((List.range (x.toNat + 1)).map fun k => s.mem.read (s.i.toNat + k)) s.v)).advanceI
          s.i x)
      else .next (s.setHalt true .outOfBoundsAddress) := by
  simp only [execLdVxMem, State.readBytes_eq, Config.memSize, Config.maxAddr, raise]
  by_cases h : s.i.toNat + x.toNat ≤ 0xFFF
  · rw [if_pos h, if_pos (by omega)]
  · rw [if_neg h, if_neg (by omega)]

/-- The bytes of a sprite's rows. -/
def spriteRows (s : State) (n : Nibble) : List Byte := (List.range n.toNat).map fun k => s.mem.read (s.i.toNat + k)

/-- DXYN: the drawing and the flag, or the error. -/
theorem execDrw_eq (x y n : Nibble) (s : State) :
    execDrw x y n s =
      if n.toNat = 0 ∨ s.i.toNat + n.toNat - 1 ≤ Config.maxAddr then
        .next ((s.setFb (drawRows (spriteRows s n) (s.reg x).toNat (s.reg y).toNat (s.fb, false)).1).setFlag
          (flagByte (drawRows (spriteRows s n) (s.reg x).toNat (s.reg y).toNat (s.fb, false)).2))
      else .next (s.setHalt true .outOfBoundsAddress) := by
  simp only [execDrw, State.readBytes_eq, Config.memSize, Config.maxAddr, raise]
  by_cases h : n.toNat = 0 ∨ s.i.toNat + n.toNat - 1 ≤ 0xFFF
  · rw [if_pos h, if_pos (by omega)]
    rfl
  · rw [if_neg h, if_neg (by omega)]

end Sys2Proof.Machine
end

