-- ==== Sys2Proof/Laws/PerInstr.lean ====
section
/-! SUPPORT. Per instruction: its encoded word selects its own row of the opcode map (spec/30_encoding.md R76, R77). -/

namespace Sys2Proof.Laws.EncodeMatchesRow

/-- The word of a well-formed instruction selects a row of the opcode map that bears the instruction's name. -/
def Statement (i : Instr) : Prop := i.WellFormed → ∃ row ∈ opcodeMap, row.mnemonic = i.mnemonic ∧ row.Selects (encode i)

/-- A row of the map without exceptions, found by its place, whose fixed bits the word has. -/
theorem of_row (i : Instr) (k : Nat) (hk : k < opcodeMap.length) (hm : opcodeMap[k].mnemonic = i.mnemonic)
    (he : opcodeMap[k].except = []) (hs : encode i &&& opcodeMap[k].mask = opcodeMap[k].pattern) : Statement i :=
  fun _ => ⟨opcodeMap[k], List.getElem_mem hk, hm, hs, by rw [he]; exact List.not_mem_nil⟩

theorem sys (nnn : Addr12) : Statement (.sys nnn) := by
  rintro ⟨h1, h2⟩
  refine ⟨opcodeMap[0], List.getElem_mem (by decide), rfl, ?_, ?_⟩
  · show encode (.sys nnn) &&& 0xF000#16 = 0x0000#16
    rw [and_F000, encode, opT_formatA]
    decide
  · have hw : ∀ c : Addr12, formatA 0#4 nnn = formatA 0#4 c → nnn = c := fun c h => by
      simpa using congrArg opNNN h
    show formatA 0x0#4 nnn ∉ [0x00E0#16, 0x00EE#16]
    simp only [List.mem_cons, List.not_mem_nil, or_false, not_or]
    exact ⟨fun h => h1 (hw _ (h.trans (by decide))), fun h => h2 (hw _ (h.trans (by decide)))⟩

theorem cls : Statement (.cls) :=
  of_row _ 1 (by decide) rfl rfl (by decide)

theorem ret : Statement (.ret) :=
  of_row _ 2 (by decide) rfl rfl (by decide)

theorem jp (nnn : Addr12) : Statement (.jp nnn) :=
  of_row _ 3 (by decide) rfl rfl
    (((and_F000 _).trans (by rw [encode, opT_formatA])).trans (by decide : formatA 0x1#4 0#12 = _))

theorem call (nnn : Addr12) : Statement (.call nnn) :=
  of_row _ 4 (by decide) rfl rfl
    (((and_F000 _).trans (by rw [encode, opT_formatA])).trans (by decide : formatA 0x2#4 0#12 = _))

theorem seImm (x : Nibble) (nn : Byte) : Statement (.seImm x nn) :=
  of_row _ 5 (by decide) rfl rfl
    (((and_F000 _).trans (by rw [encode, opT_formatXI])).trans (by decide : formatA 0x3#4 0#12 = _))

theorem sneImm (x : Nibble) (nn : Byte) : Statement (.sneImm x nn) :=
  of_row _ 6 (by decide) rfl rfl
    (((and_F000 _).trans (by rw [encode, opT_formatXI])).trans (by decide : formatA 0x4#4 0#12 = _))

theorem seReg (x : Nibble) (y : Nibble) : Statement (.seReg x y) :=
  of_row _ 7 (by decide) rfl rfl
    (((and_F00F _).trans (by rw [encode, opT_formatXY, opN_formatXY])).trans (by decide : formatXY 0x5#4 0#4 0#4 0x0#4 = _))

theorem ldImm (x : Nibble) (nn : Byte) : Statement (.ldImm x nn) :=
  of_row _ 8 (by decide) rfl rfl
    (((and_F000 _).trans (by rw [encode, opT_formatXI])).trans (by decide : formatA 0x6#4 0#12 = _))

theorem addImm (x : Nibble) (nn : Byte) : Statement (.addImm x nn) :=
  of_row _ 9 (by decide) rfl rfl
    (((and_F000 _).trans (by rw [encode, opT_formatXI])).trans (by decide : formatA 0x7#4 0#12 = _))

theorem ldReg (x : Nibble) (y : Nibble) : Statement (.ldReg x y) :=
  of_row _ 10 (by decide) rfl rfl
    (((and_F00F _).trans (by rw [encode, opT_formatXY, opN_formatXY])).trans (by decide : formatXY 0x8#4 0#4 0#4 0x0#4 = _))

theorem orReg (x : Nibble) (y : Nibble) : Statement (.orReg x y) :=
  of_row _ 11 (by decide) rfl rfl
    (((and_F00F _).trans (by rw [encode, opT_formatXY, opN_formatXY])).trans (by decide : formatXY 0x8#4 0#4 0#4 0x1#4 = _))

theorem andReg (x : Nibble) (y : Nibble) : Statement (.andReg x y) :=
  of_row _ 12 (by decide) rfl rfl
    (((and_F00F _).trans (by rw [encode, opT_formatXY, opN_formatXY])).trans (by decide : formatXY 0x8#4 0#4 0#4 0x2#4 = _))

theorem xorReg (x : Nibble) (y : Nibble) : Statement (.xorReg x y) :=
  of_row _ 13 (by decide) rfl rfl
    (((and_F00F _).trans (by rw [encode, opT_formatXY, opN_formatXY])).trans (by decide : formatXY 0x8#4 0#4 0#4 0x3#4 = _))

theorem addReg (x : Nibble) (y : Nibble) : Statement (.addReg x y) :=
  of_row _ 14 (by decide) rfl rfl
    (((and_F00F _).trans (by rw [encode, opT_formatXY, opN_formatXY])).trans (by decide : formatXY 0x8#4 0#4 0#4 0x4#4 = _))

theorem sub (x : Nibble) (y : Nibble) : Statement (.sub x y) :=
  of_row _ 15 (by decide) rfl rfl
    (((and_F00F _).trans (by rw [encode, opT_formatXY, opN_formatXY])).trans (by decide : formatXY 0x8#4 0#4 0#4 0x5#4 = _))

theorem shr (x : Nibble) (y : Nibble) : Statement (.shr x y) :=
  of_row _ 16 (by decide) rfl rfl
    (((and_F00F _).trans (by rw [encode, opT_formatXY, opN_formatXY])).trans (by decide : formatXY 0x8#4 0#4 0#4 0x6#4 = _))

theorem subn (x : Nibble) (y : Nibble) : Statement (.subn x y) :=
  of_row _ 17 (by decide) rfl rfl
    (((and_F00F _).trans (by rw [encode, opT_formatXY, opN_formatXY])).trans (by decide : formatXY 0x8#4 0#4 0#4 0x7#4 = _))

theorem shl (x : Nibble) (y : Nibble) : Statement (.shl x y) :=
  of_row _ 18 (by decide) rfl rfl
    (((and_F00F _).trans (by rw [encode, opT_formatXY, opN_formatXY])).trans (by decide : formatXY 0x8#4 0#4 0#4 0xE#4 = _))

theorem sneReg (x : Nibble) (y : Nibble) : Statement (.sneReg x y) :=
  of_row _ 19 (by decide) rfl rfl
    (((and_F00F _).trans (by rw [encode, opT_formatXY, opN_formatXY])).trans (by decide : formatXY 0x9#4 0#4 0#4 0x0#4 = _))

theorem ldI (nnn : Addr12) : Statement (.ldI nnn) :=
  of_row _ 20 (by decide) rfl rfl
    (((and_F000 _).trans (by rw [encode, opT_formatA])).trans (by decide : formatA 0xA#4 0#12 = _))

theorem jpV0 (nnn : Addr12) : Statement (.jpV0 nnn) :=
  of_row _ 21 (by decide) rfl rfl
    (((and_F000 _).trans (by rw [encode, opT_formatA])).trans (by decide : formatA 0xB#4 0#12 = _))

theorem rnd (x : Nibble) (nn : Byte) : Statement (.rnd x nn) :=
  of_row _ 22 (by decide) rfl rfl
    (((and_F000 _).trans (by rw [encode, opT_formatXI])).trans (by decide : formatA 0xC#4 0#12 = _))

theorem drw (x : Nibble) (y : Nibble) (n : Nibble) : Statement (.drw x y n) :=
  of_row _ 23 (by decide) rfl rfl
    (((and_F000 _).trans (by rw [encode, opT_formatXY])).trans (by decide : formatA 0xD#4 0#12 = _))

theorem skp (x : Nibble) : Statement (.skp x) :=
  of_row _ 24 (by decide) rfl rfl
    (((and_F0FF _).trans (by rw [encode, opT_formatXI, opNN_formatXI])).trans (by decide : formatXI 0xE#4 0#4 0x9E#8 = _))

theorem sknp (x : Nibble) : Statement (.sknp x) :=
  of_row _ 25 (by decide) rfl rfl
    (((and_F0FF _).trans (by rw [encode, opT_formatXI, opNN_formatXI])).trans (by decide : formatXI 0xE#4 0#4 0xA1#8 = _))

theorem ldVxDt (x : Nibble) : Statement (.ldVxDt x) :=
  of_row _ 26 (by decide) rfl rfl
    (((and_F0FF _).trans (by rw [encode, opT_formatXI, opNN_formatXI])).trans (by decide : formatXI 0xF#4 0#4 0x07#8 = _))

theorem ldVxK (x : Nibble) : Statement (.ldVxK x) :=
  of_row _ 27 (by decide) rfl rfl
    (((and_F0FF _).trans (by rw [encode, opT_formatXI, opNN_formatXI])).trans (by decide : formatXI 0xF#4 0#4 0x0A#8 = _))

theorem ldDtVx (x : Nibble) : Statement (.ldDtVx x) :=
  of_row _ 28 (by decide) rfl rfl
    (((and_F0FF _).trans (by rw [encode, opT_formatXI, opNN_formatXI])).trans (by decide : formatXI 0xF#4 0#4 0x15#8 = _))

theorem ldStVx (x : Nibble) : Statement (.ldStVx x) :=
  of_row _ 29 (by decide) rfl rfl
    (((and_F0FF _).trans (by rw [encode, opT_formatXI, opNN_formatXI])).trans (by decide : formatXI 0xF#4 0#4 0x18#8 = _))

theorem addI (x : Nibble) : Statement (.addI x) :=
  of_row _ 30 (by decide) rfl rfl
    (((and_F0FF _).trans (by rw [encode, opT_formatXI, opNN_formatXI])).trans (by decide : formatXI 0xF#4 0#4 0x1E#8 = _))

theorem ldF (x : Nibble) : Statement (.ldF x) :=
  of_row _ 31 (by decide) rfl rfl
    (((and_F0FF _).trans (by rw [encode, opT_formatXI, opNN_formatXI])).trans (by decide : formatXI 0xF#4 0#4 0x29#8 = _))

theorem ldB (x : Nibble) : Statement (.ldB x) :=
  of_row _ 32 (by decide) rfl rfl
    (((and_F0FF _).trans (by rw [encode, opT_formatXI, opNN_formatXI])).trans (by decide : formatXI 0xF#4 0#4 0x33#8 = _))

theorem ldMemVx (x : Nibble) : Statement (.ldMemVx x) :=
  of_row _ 33 (by decide) rfl rfl
    (((and_F0FF _).trans (by rw [encode, opT_formatXI, opNN_formatXI])).trans (by decide : formatXI 0xF#4 0#4 0x55#8 = _))

theorem ldVxMem (x : Nibble) : Statement (.ldVxMem x) :=
  of_row _ 34 (by decide) rfl rfl
    (((and_F0FF _).trans (by rw [encode, opT_formatXI, opNN_formatXI])).trans (by decide : formatXI 0xF#4 0#4 0x65#8 = _))

end Sys2Proof.Laws.EncodeMatchesRow
end

