-- ==== Sys2Proof/Tests/Slice0.lean ====
section
/-! SUPPORT. The model's own tests. Expected results are those of spec/95_test_vectors.md, named by their ids there
(S, VT, VC, VA, VM, VG, VK, VB, P); then, for every statement with hypotheses, states and operands that meet them. -/

namespace Sys2Proof.Tests

open Sys2Proof.Machine

/-! ### Helpers -/

/-- The next state of an outcome, if it has one. -/
def nextOf : Result → Option State
  | .next t => some t
  | _ => none

/-- The reset state with an instruction word at 0x200 and some registers set. -/
def start (w : Nat) (regs : List (Nibble × Byte)) : State :=
  regs.foldl (fun s p => s.setReg p.1 p.2) (State.reset.withFetchWord 16 w)

/-- Bytes put into memory from an address. -/
def withBytes (s : State) (a : Nat) (bytes : List Byte) : State := s.setMem (s.mem.copyIn a bytes)

/-- One Step, then what `f` reads off the state it leaves. -/
def afterStep {α : Type} (s : State) (f : State → α) : Option α := (nextOf (step s)).map f

/-- Framebuffer cell `(x, y)`. -/
def cell (s : State) (x : Fin 64) (y : Fin 32) : Bool := Framebuffer.cell s.fb x y

/-! ### Well-formedness: the one check, with terms it refuses -/

theorem test_wellFormed_refuses_cls_word_as_sys : ¬ (Instr.sys 0x0E0#12).WellFormed := by decide
theorem test_wellFormed_refuses_ret_word_as_sys : ¬ (Instr.sys 0x0EE#12).WellFormed := by decide
theorem test_wellFormed_accepts_sys : (Instr.sys 0x0E1#12).WellFormed ∧ Instr.cls.WellFormed := by decide

/-! ### Decoding: words written out from the patterns of spec/30_encoding.md R76, four fields of four bits -/

theorem test_decode_system : decode 0b0000_0001_0010_0011#16 = .ok (.sys 0x123#12) ∧
    decode 0b0000_0000_1110_0000#16 = .ok .cls ∧ decode 0b0000_0000_1110_1110#16 = .ok .ret := by decide
theorem test_decode_jumps : decode 0b0001_1010_1011_1100#16 = .ok (.jp 0xABC#12) ∧
    decode 0b0010_0011_0000_0001#16 = .ok (.call 0x301#12) ∧
    decode 0b1011_0101_0000_0010#16 = .ok (.jpV0 0x502#12) := by decide
theorem test_decode_skips : decode 0b0011_1010_0000_0101#16 = .ok (.seImm 0xA#4 0x05#8) ∧
    decode 0b0100_1010_0110_0101#16 = .ok (.sneImm 0xA#4 0x65#8) ∧
    decode 0b0101_0001_0010_0000#16 = .ok (.seReg 0x1#4 0x2#4) ∧
    decode 0b1001_0011_0100_0000#16 = .ok (.sneReg 0x3#4 0x4#4) := by decide
theorem test_decode_loads : decode 0b0110_0011_1010_1011#16 = .ok (.ldImm 0x3#4 0xAB#8) ∧
    decode 0b0111_0000_0000_1010#16 = .ok (.addImm 0x0#4 0x0A#8) ∧
    decode 0b1100_0001_0000_1111#16 = .ok (.rnd 0x1#4 0x0F#8) := by decide
theorem test_decode_logic : decode 0b1000_0001_0010_0000#16 = .ok (.ldReg 0x1#4 0x2#4) ∧
    decode 0b1000_0001_0010_0001#16 = .ok (.orReg 0x1#4 0x2#4) ∧
    decode 0b1000_0001_0010_0010#16 = .ok (.andReg 0x1#4 0x2#4) ∧
    decode 0b1000_0001_0010_0011#16 = .ok (.xorReg 0x1#4 0x2#4) := by decide
theorem test_decode_arith : decode 0b1000_0001_0010_0100#16 = .ok (.addReg 0x1#4 0x2#4) ∧
    decode 0b1000_0001_0010_0101#16 = .ok (.sub 0x1#4 0x2#4) ∧
    decode 0b1000_0001_0010_0110#16 = .ok (.shr 0x1#4 0x2#4) ∧
    decode 0b1000_0001_0010_0111#16 = .ok (.subn 0x1#4 0x2#4) ∧
    decode 0b1000_0001_0010_1110#16 = .ok (.shl 0x1#4 0x2#4) := by decide
theorem test_decode_index : decode 0b1010_1111_1111_1110#16 = .ok (.ldI 0xFFE#12) ∧
    decode 0b1111_0010_0001_1110#16 = .ok (.addI 0x2#4) ∧ decode 0b1111_0011_0010_1001#16 = .ok (.ldF 0x3#4) ∧
    decode 0b1111_0100_0011_0011#16 = .ok (.ldB 0x4#4) ∧ decode 0b1111_0101_0101_0101#16 = .ok (.ldMemVx 0x5#4) ∧
    decode 0b1111_0110_0110_0101#16 = .ok (.ldVxMem 0x6#4) := by decide
theorem test_decode_display : decode 0b1101_0001_0010_0011#16 = .ok (.drw 0x1#4 0x2#4 0x3#4) := by decide
theorem test_decode_keys_timers : decode 0b1110_0011_1001_1110#16 = .ok (.skp 0x3#4) ∧
    decode 0b1110_0011_1010_0001#16 = .ok (.sknp 0x3#4) ∧ decode 0b1111_0010_0000_0111#16 = .ok (.ldVxDt 0x2#4) ∧
    decode 0b1111_0101_0000_1010#16 = .ok (.ldVxK 0x5#4) ∧ decode 0b1111_0010_0001_0101#16 = .ok (.ldDtVx 0x2#4) ∧
    decode 0b1111_0010_0001_1000#16 = .ok (.ldStVx 0x2#4) := by decide
/-- VT7's words, rejected by name. -/
theorem test_decode_rejects : decode 0x5121#16 = .error (.unassigned 0x5121#16) ∧
    decode 0x8128#16 = .error (.unassigned 0x8128#16) ∧
    decode 0x812F#16 = .error (.unassigned 0x812F#16) ∧
    decode 0x9121#16 = .error (.unassigned 0x9121#16) ∧
    decode 0xE19F#16 = .error (.unassigned 0xE19F#16) := by decide
/-- VT7's words, rejected by name. -/
theorem test_decode_rejects_low_bytes : decode 0xE000#16 = .error (.unassigned 0xE000#16) ∧
    decode 0xF000#16 = .error (.unassigned 0xF000#16) ∧
    decode 0xF1FF#16 = .error (.unassigned 0xF1FF#16) ∧
    decode 0xF175#16 = .error (.unassigned 0xF175#16) ∧
    decode 0xF130#16 = .error (.unassigned 0xF130#16) := by decide
theorem test_decodeBytes_truncated : decodeBytes [0x12#8] = .error .truncated := by decide
/-- The first byte is the high one (R53, R55). -/
theorem test_tableWord : decodeTableWord 16 0x63AB = some (.ldImm 0x3#4 0xAB#8) ∧ decodeTableWord 16 0x8128 = none := by decide
theorem test_withFetchWord : (State.reset.withFetchWord 16 0x63AB).fetchWord.toOption = some (0x63#8, 0xAB#8) := by decide

/-! ### The Step transaction -/

/-- VT1. -/
theorem test_fetch_bigEndian : afterStep (start 0x1234 []) (·.pc) = some 0x234#16 := by decide
/-- VT2. -/
theorem test_fetch_wraps : afterStep (withBytes (withBytes (State.reset.setPc 0xFFF#16) 0xFFF [0x6A#8]) 0 [0x55#8])
    (fun t => (t.reg 0xA#4, t.pc)) = some (0x55#8, 0x001#16) := by decide
/-- VT4. -/
theorem test_fetch_odd : afterStep (withBytes (State.reset.setPc 0x201#16) 0x201 [0x61#8, 0x07#8])
    (fun t => (t.reg 0x1#4, t.pc, t.halt)) = some (0x07#8, 0x203#16, false) := by decide
/-- VT7: every unassigned word is the no-op that sets DIAG. -/
theorem test_unassigned : [0x5121, 0x8128, 0x9121, 0xE19F, 0xF130].map (fun w => afterStep (start w []) (·.diag)) =
    [some true, some true, some true, some true, some true] := by decide
/-- VT7: nothing else changes. -/
theorem test_unassigned_frame : afterStep (start 0xF175 [(1#4, 7#8)]) (fun t => (t.pc, t.reg 1#4, t.i, t.halt)) =
    some (0x202#16, 7#8, 0#16, false) := by decide
/-- VT8. -/
theorem test_halted : afterStep (State.reset.setHalt true .stackUnderflow) (fun t => (t.pc, t.stepReply)) =
    some (0x200#16, .stepErr .stackUnderflow) := by decide
/-- VT9. -/
theorem test_waiting : afterStep ((start 0x6A55 []).setWait true 5#4) (fun t => (t.pc, t.reg 0xA#4, t.stepReply)) =
    some (0x200#16, 0#8, .stepOk) := by decide

/-! ### Control transfer -/

/-- VT5, VT6. -/
theorem test_sys : afterStep (start 0x0000 []) (fun t => (t.diag, t.pc)) = some (true, 0x202#16) ∧
    afterStep (start 0x00E1 []) (fun t => (t.diag, t.pc)) = some (true, 0x202#16) := by decide
/-- VC1, VC2, VC3. -/
theorem test_jp : [0x1ABC, 0x1200, 0x1001].map (fun w => afterStep (start w []) (·.pc)) =
    [some 0xABC#16, some 0x200#16, some 0x001#16] := by decide
/-- VC4's push at another address: the advanced PC; VC5: the 16th call succeeds. -/
theorem test_call : afterStep (start 0x2300 []) (fun t => (t.stack[0], t.sp.val, t.pc)) = some (0x202#16, 1, 0x300#16) ∧
    afterStep ((start 0x2300 []).setStack 15 (.replicate 16 0#16)) (fun t => (t.stack[15], t.sp.val, t.pc)) =
      some (0x202#16, 16, 0x300#16) := by decide
/-- S7. -/
theorem test_call_overflow : afterStep ((start 0x2300 []).setStack 16 (.replicate 16 0#16))
    (fun t => (t.halt, t.err, t.pc, t.sp.val)) = some (true, .stackOverflow, 0x202#16, 16) := by decide
/-- VC7. -/
theorem test_ret : afterStep ((start 0x00EE []).setStack 3 ((Vector.replicate 16 0#16).set 2 0x456#16))
    (fun t => (t.sp.val, t.pc)) = some (2, 0x456#16) := by decide
/-- S7, P5(a). -/
theorem test_ret_underflow : afterStep (start 0x00EE []) (fun t => (t.halt, t.err, t.pc, t.sp.val)) =
    some (true, .stackUnderflow, 0x202#16, 0) := by decide
/-- VC8, VC9. -/
theorem test_seImm : afterStep (start 0x3A05 [(0xA#4, 5#8)]) (·.pc) = some 0x204#16 ∧
    afterStep (start 0x3A05 [(0xA#4, 6#8)]) (·.pc) = some 0x202#16 := by decide
/-- VC11, VC12: the skip wraps. -/
theorem test_seImm_wraps : afterStep ((State.reset.setPc 0xFFC#16).withFetchWord 16 0x3000) (·.pc) = some 0x000#16 ∧
    afterStep ((State.reset.setPc 0xFFE#16).withFetchWord 16 0x3000) (·.pc) = some 0x002#16 := by decide
/-- VC13, VC14. -/
theorem test_sneImm : afterStep (start 0x4A05 [(0xA#4, 5#8)]) (·.pc) = some 0x202#16 ∧
    afterStep (start 0x4A05 [(0xA#4, 6#8)]) (·.pc) = some 0x204#16 := by decide
/-- VC15, VC16. -/
theorem test_seReg : afterStep (start 0x5120 [(1#4, 7#8), (2#4, 7#8)]) (·.pc) = some 0x204#16 ∧
    afterStep (start 0x5120 [(1#4, 7#8), (2#4, 8#8)]) (·.pc) = some 0x202#16 := by decide
/-- VC18, VC19. -/
theorem test_sneReg : afterStep (start 0x9120 [(1#4, 7#8), (2#4, 8#8)]) (·.pc) = some 0x204#16 ∧
    afterStep (start 0x9120 [(1#4, 7#8), (2#4, 7#8)]) (·.pc) = some 0x202#16 := by decide
/-- VC22, VC23. -/
theorem test_jpV0_wraps : afterStep (start 0xBFFF [(0#4, 2#8)]) (·.pc) = some 0x001#16 ∧
    afterStep (start 0xBFFF [(0#4, 0xFF#8)]) (·.pc) = some 0x0FE#16 := by decide
/-- VC24: V0 and not V5. -/
theorem test_jpV0_uses_v0 : afterStep (start 0xB500 [(5#4, 9#8)]) (·.pc) = some 0x500#16 := by decide

/-! ### Loads, arithmetic and logic -/

/-- S1, VA1. -/
theorem test_ldImm : afterStep (start 0x63AB []) (·.reg 3#4) = some 0xAB#8 ∧
    afterStep (start 0x6F7E []) (·.reg 0xF#4) = some 0x7E#8 := by decide
/-- S2, VA2. -/
theorem test_addImm : afterStep (start 0x700A [(0#4, 250#8), (0xF#4, 1#8)]) (fun t => (t.reg 0#4, t.reg 0xF#4)) =
    some (4#8, 1#8) ∧ afterStep (start 0x7001 [(0#4, 255#8)]) (fun t => (t.reg 0#4, t.reg 0xF#4)) = some (0#8, 0#8) := by
  decide
/-- VA5. -/
theorem test_ldReg : afterStep (start 0x8120 [(1#4, 1#8), (2#4, 0xEE#8), (0xF#4, 1#8)])
    (fun t => (t.reg 1#4, t.reg 2#4, t.reg 0xF#4)) = some (0xEE#8, 0xEE#8, 1#8) := by decide
/-- VA6. -/
theorem test_orReg : afterStep (start 0x8121 [(1#4, 0b11001010#8), (2#4, 0b10100101#8), (0xF#4, 1#8)])
    (fun t => (t.reg 1#4, t.reg 0xF#4)) = some (0b11101111#8, 1#8) := by decide
/-- VA7. -/
theorem test_andReg : afterStep (start 0x8122 [(1#4, 0b11001010#8), (2#4, 0b10100101#8), (0xF#4, 1#8)])
    (fun t => (t.reg 1#4, t.reg 0xF#4)) = some (0b10000000#8, 1#8) := by decide
/-- VA8. -/
theorem test_xorReg : afterStep (start 0x8123 [(1#4, 0b11001010#8), (2#4, 0b10100101#8), (0xF#4, 1#8)])
    (fun t => (t.reg 1#4, t.reg 0xF#4)) = some (0b01101111#8, 1#8) := by decide
/-- S3. -/
theorem test_addReg : afterStep (start 0x8014 [(0#4, 200#8), (1#4, 100#8)]) (fun t => (t.reg 0#4, t.reg 0xF#4)) =
    some (44#8, 1#8) ∧ afterStep (start 0x8014 [(0#4, 10#8), (1#4, 20#8), (0xF#4, 1#8)])
      (fun t => (t.reg 0#4, t.reg 0xF#4)) = some (30#8, 0#8) := by decide
/-- VA27, VA30, VA32: VF as destination and as source. -/
theorem test_addReg_vf : afterStep (start 0x8F14 [(0xF#4, 200#8), (1#4, 100#8)]) (·.reg 0xF#4) = some 44#8 ∧
    afterStep (start 0x81F4 [(1#4, 200#8), (0xF#4, 100#8)]) (fun t => (t.reg 1#4, t.reg 0xF#4)) = some (44#8, 1#8) ∧
    afterStep (start 0x8FF4 [(0xF#4, 200#8)]) (·.reg 0xF#4) = some 144#8 := by decide
/-- S4, VA14. -/
theorem test_sub : afterStep (start 0x8015 [(0#4, 5#8), (1#4, 10#8)]) (fun t => (t.reg 0#4, t.reg 0xF#4)) =
    some (251#8, 0#8) ∧ afterStep (start 0x8125 [(1#4, 7#8), (2#4, 7#8)]) (fun t => (t.reg 1#4, t.reg 0xF#4)) =
      some (0#8, 1#8) := by decide
/-- VA28, VA31. -/
theorem test_sub_vf : afterStep (start 0x8F15 [(0xF#4, 5#8), (1#4, 10#8)]) (·.reg 0xF#4) = some 251#8 ∧
    afterStep (start 0x81F5 [(1#4, 10#8), (0xF#4, 20#8)]) (fun t => (t.reg 1#4, t.reg 0xF#4)) = some (246#8, 0#8) := by
  decide
/-- S5, VA18: Y is ignored. -/
theorem test_shr : afterStep (start 0x8006 [(0#4, 3#8)]) (fun t => (t.reg 0#4, t.reg 0xF#4)) = some (1#8, 1#8) ∧
    afterStep (start 0x8126 [(1#4, 0x80#8), (2#4, 0xFF#8)]) (fun t => (t.reg 1#4, t.reg 0xF#4, t.reg 2#4)) =
      some (0x40#8, 0#8, 0xFF#8) := by decide
/-- VA29, second half. -/
theorem test_shr_vf : afterStep (start 0x8F06 [(0xF#4, 6#8)]) (·.reg 0xF#4) = some 3#8 := by decide
/-- VA21, VA22. -/
theorem test_subn : afterStep (start 0x8127 [(1#4, 5#8), (2#4, 10#8)]) (fun t => (t.reg 1#4, t.reg 0xF#4)) =
    some (5#8, 1#8) ∧ afterStep (start 0x8127 [(1#4, 10#8), (2#4, 5#8)]) (fun t => (t.reg 1#4, t.reg 0xF#4)) =
      some (251#8, 0#8) := by decide
/-- VA24, VA26: Y is ignored. -/
theorem test_shl : afterStep (start 0x812E [(1#4, 0x80#8), (2#4, 1#8)]) (fun t => (t.reg 1#4, t.reg 0xF#4, t.reg 2#4)) =
    some (0#8, 1#8, 1#8) ∧ afterStep (start 0x812E [(1#4, 0xC1#8)]) (fun t => (t.reg 1#4, t.reg 0xF#4)) =
      some (0x82#8, 1#8) := by decide
/-- VA34: whatever the random byte is. -/
theorem test_rnd_zero_mask (s : State) : (nextOf (exec (.rnd 1#4 0#8) s)).map (·.reg 1#4) = some 0#8 := by
  simp [nextOf, exec, execRnd, State.reg_setReg_same]
/-- VA33: for a random byte 0xA7. -/
theorem test_rnd (s : State) (h : Config.randomByte s.draws = 0xA7#8) :
    (nextOf (exec (.rnd 1#4 0x0F#8) s)).map (·.reg 1#4) = some 0x07#8 := by
  simp [nextOf, exec, execRnd, h, State.reg_setReg_same]

/-! ### Index and memory -/

/-- VM1. -/
theorem test_ldI : afterStep (start 0xAFFF []) (·.i) = some 0xFFF#16 := by decide
/-- VM2, VM3. -/
theorem test_addI : afterStep ((start 0xF21E [(2#4, 0x20#8), (0xF#4, 1#8)]).setI 0x300#16) (fun t => (t.i, t.reg 0xF#4)) =
    some (0x320#16, 1#8) ∧ afterStep ((start 0xF21E [(2#4, 1#8)]).setI 0xFFF#16) (fun t => (t.i, t.reg 0xF#4)) =
      some (0#16, 0#8) := by decide
/-- VM6, VM7: the whole byte. -/
theorem test_ldF : afterStep (start 0xF329 [(3#4, 0x1A#8)]) (·.i) = some 0x082#16 ∧
    afterStep (start 0xF329 [(3#4, 255#8)]) (·.i) = some 0x4FB#16 := by decide
/-- S10, VM9. -/
theorem test_ldB : afterStep ((start 0xF033 [(0#4, 156#8)]).setI 0x300#16)
    (fun t => ([0x300, 0x301, 0x302].map t.mem.read, t.i)) = some ([1#8, 5#8, 6#8], 0x300#16) ∧
    afterStep ((start 0xF033 [(0#4, 255#8)]).setI 0xFFD#16) (fun t => ([0xFFD, 0xFFE, 0xFFF].map t.mem.read, t.halt)) =
      some ([2#8, 5#8, 5#8], false) := by decide
/-- VM10. -/
theorem test_ldB_outOfBounds : afterStep ((start 0xF033 [(0#4, 255#8)]).setI 0xFFE#16)
    (fun t => ([0xFFE, 0xFFF].map t.mem.read, t.halt, t.err, t.pc, t.i)) =
      some ([0#8, 0#8], true, .outOfBoundsAddress, 0x202#16, 0xFFE#16) := by decide
/-- S11, VM14. -/
theorem test_ldMemVx : afterStep ((start 0xF255 [(0#4, 7#8), (1#4, 8#8), (2#4, 9#8), (3#4, 4#8)]).setI 0x300#16)
    (fun t => ([0x300, 0x301, 0x302, 0x303].map t.mem.read, t.i)) = some ([7#8, 8#8, 9#8, 0#8], 0x303#16) ∧
    afterStep ((start 0xF255 [(0#4, 1#8), (1#4, 2#8), (2#4, 3#8)]).setI 0xFFD#16)
      (fun t => ([0xFFD, 0xFFE, 0xFFF].map t.mem.read, t.i)) = some ([1#8, 2#8, 3#8], 0#16) := by decide
/-- VM15. -/
theorem test_ldMemVx_outOfBounds : afterStep ((start 0xF255 [(0#4, 1#8), (1#4, 2#8)]).setI 0xFFE#16)
    (fun t => ([0xFFE, 0xFFF].map t.mem.read, t.i, t.halt)) = some ([0#8, 0#8], 0xFFE#16, true) := by decide
/-- VM16. -/
theorem test_ldVxMem : afterStep (withBytes ((start 0xF265 [(3#4, 9#8)]).setI 0x300#16) 0x300 [1#8, 5#8, 6#8, 7#8])
    (fun t => ([0#4, 1#4, 2#4, 3#4].map t.reg, t.i)) = some ([1#8, 5#8, 6#8, 9#8], 0x303#16) := by decide
/-- VM18. -/
theorem test_ldVxMem_outOfBounds : afterStep ((start 0xF265 [(0#4, 9#8)]).setI 0xFFE#16)
    (fun t => (t.reg 0#4, t.i, t.halt, t.err)) = some (9#8, 0xFFE#16, true, .outOfBoundsAddress) := by decide

/-! ### Display -/

/-- VG1. -/
theorem test_cls : afterStep ((start 0x00E0 [(0xF#4, 1#8)]).setFb (Framebuffer.setCell Framebuffer.clear 5 5 true))
    (fun t => (cell t 5 5, t.reg 0xF#4)) = some (false, 1#8) := by decide
/-- VG2: columns wrap. -/
theorem test_drw_wraps : afterStep (withBytes ((start 0xD011 [(0#4, 62#8)]).setI 0x300#16) 0x300 [0xFF#8])
    (fun t => ([61, 62, 63, 0, 5, 6].map (fun x => cell t x 0), t.reg 0xF#4)) =
      some ([false, true, true, true, true, false], 0#8) := by decide
/-- VG5: one collision is enough. -/
theorem test_drw_collides : afterStep (withBytes (((start 0xD011 []).setI 0x300#16).setFb
    (Framebuffer.setCell Framebuffer.clear 0 0 true)) 0x300 [0b10100000#8])
    (fun t => ([0, 1, 2].map (fun x => cell t x 0), t.reg 0xF#4)) = some ([false, false, true], 1#8) := by decide

/-! ### Keys, timers, host transactions -/

/-- VK1, VK3: no masking. -/
theorem test_skp : afterStep ((start 0xE39E [(3#4, 0xA#8)]).setKey 0xA true) (·.pc) = some 0x204#16 ∧
    afterStep ((start 0xE39E [(3#4, 0x1A#8)]).setKey 0xA true) (·.pc) = some 0x202#16 := by decide
/-- VK4, VK6. -/
theorem test_sknp : afterStep (start 0xE3A1 [(3#4, 0xA#8)]) (·.pc) = some 0x204#16 ∧
    afterStep (start 0xE3A1 [(3#4, 0x1A#8)]) (·.pc) = some 0x202#16 := by decide
/-- VK7: a held key does not resolve the wait. -/
theorem test_ldVxK : afterStep ((start 0xF50A []).setKey 2 true) (fun t => (t.wait, t.waitReg, t.pc, t.reg 5#4)) =
    some (true, 5#4, 0x202#16, 0#8) := by decide
/-- VK8, VK10. -/
theorem test_setKey_wait : ((State.reset.setWait true 5#4).setKey 2 false).wait = true ∧
    ((State.reset.setWait true 5#4).setKey 0xB true).wait = false ∧
    ((State.reset.setWait true 5#4).setKey 0xB true).reg 5#4 = 0x0B#8 := by decide
/-- VK9. -/
theorem test_setKey_above_15 : ((State.reset.setWait true 5#4).setKey 16 true).wait = true ∧
    ((State.reset.setWait true 5#4).setKey 16 true).reg 5#4 = 0#8 := by decide
/-- VK13. -/
theorem test_ldVxDt : afterStep ((start 0xF207 []).setDt 0x3C#8) (fun t => (t.reg 2#4, t.dt)) = some (0x3C#8, 0x3C#8) := by
  decide
/-- VK14. -/
theorem test_ldDtVx : afterStep (start 0xF215 [(2#4, 60#8)]) (fun t => (t.dt, t.st)) = some (60#8, 0#8) := by decide
/-- VK15, VK16. -/
theorem test_ldStVx : afterStep (start 0xF218 [(2#4, 5#8)]) (fun t => (t.st, t.soundTimerActive)) = some (5#8, true) ∧
    afterStep ((start 0xF218 []).setSt 9#8) (fun t => (t.st, t.soundTimerActive)) = some (0#8, false) := by decide
/-- VK17, VK20. -/
theorem test_tickTimers : (State.reset.setDt 2#8).tickTimers.dt = 1#8 ∧ (State.reset.setDt 2#8).tickTimers.st = 0#8 ∧
    ((State.reset.setDt 5#8).setHalt true .stackOverflow).tickTimers.dt = 4#8 := by decide
/-- VB3's boundary in small: VB5, memory only. -/
theorem test_loadProgram : ((withBytes (State.reset.setPc 0x300#16) 0x201 [0x55#8]).loadProgram [0xAA#8]).toOption.map
    (fun t => ([0x200, 0x201].map t.mem.read, t.pc)) = some ([0xAA#8, 0x55#8], 0x300#16) := by decide
/-- VB1. -/
theorem test_reset : ((((start 0x1234 [(3#4, 9#8)]).setHalt true .stackOverflow).setDt 9#8).resetFrom).mem = [] ∧
    ((start 0x1234 [(3#4, 9#8)]).setHalt true .stackOverflow).resetFrom.reg 3#4 = 0#8 ∧
    ((start 0x1234 [(3#4, 9#8)]).setHalt true .stackOverflow).resetFrom.halt = false := by decide

/-! ### For each statement with hypotheses, a state and operands that meet them -/

/-- A state with PC at the last address. -/
def atTop : State := withBytes (State.reset.setPc 0xFFF#16) 0xFFF [0x6A#8]

/-- A state with I set. -/
def withI (n : Nat) : State := State.reset.setI (BitVec.ofNat 16 n)

/-- A state with so many live stack entries. -/
def withSp (n : Fin 17) : State := State.reset.setStack n (.replicate 16 0x300#16)

/-- A state that meets the invariant, at the largest I, PC and stack entries. -/
theorem atLimits_inv : ((withSp 16).setPc 0xFFF#16 |>.setI 0xFFF#16).Inv := by constructor <;> decide

theorem witness_DecodeOfEncodeIsTheInstruction : (Instr.sys 0x0E1#12).WellFormed ∧ (Instr.drw 0xF#4 0xF#4 0xF#4).WellFormed := by
  decide
theorem witness_EncodeOfDecodeIsTheWord : decode 0x00E1#16 = .ok (.sys 0x0E1#12) := by decide
theorem witness_DecoderFollowsTheOpcodeMap : decode 0x00E1#16 = .ok (.sys 0x0E1#12) ∧
    decode 0x5001#16 = .error (.unassigned 0x5001#16) := by decide
theorem witness_OpcodeRowsDoNotOverlap : ∃ row ∈ opcodeMap, row.Selects 0x800E#16 := by decide
theorem witness_UnassignedWordsAreExactlyTheListedSets : decode 0x500F#16 = .error (.unassigned 0x500F#16) ∧
    decode 0x8008#16 = .error (.unassigned 0x8008#16) ∧
    decode 0x900F#16 = .error (.unassigned 0x900F#16) ∧
    decode 0xE09F#16 = .error (.unassigned 0xE09F#16) ∧
    decode 0xF066#16 = .error (.unassigned 0xF066#16) := by decide
theorem witness_FetchIsBigEndianAndWraps : atTop.pc.toNat ≤ 0xFFF := by decide
theorem witness_StepRunsTheDecodedInstruction : atTop.Running ∧ atTop.pc.toNat ≤ 0xFFF ∧
    decode (wordOfBytes (atTop.mem.read atTop.pc.toNat) (atTop.mem.read ((atTop.pc.toNat + 1) % 4096))) =
      .ok (.ldImm 0xA#4 0x00#8) := by decide
theorem witness_StepOnAnUnknownWordOnlySetsDiag_unassigned : (start 0x5001 []).Running ∧
    (start 0x5001 []).pc.toNat ≤ 0xFFF ∧ decode (wordOfBytes ((start 0x5001 []).mem.read (start 0x5001 []).pc.toNat)
      ((start 0x5001 []).mem.read (((start 0x5001 []).pc.toNat + 1) % 4096))) = .error (.unassigned 0x5001#16) := by decide
theorem witness_StepOnAnUnknownWordOnlySetsDiag_sys : (start 0x00E1 []).Running ∧
    (start 0x00E1 []).pc.toNat ≤ 0xFFF ∧ decode (wordOfBytes ((start 0x00E1 []).mem.read (start 0x00E1 []).pc.toNat)
      ((start 0x00E1 []).mem.read (((start 0x00E1 []).pc.toNat + 1) % 4096))) = .ok (.sys 0x0E1#12) := by decide
theorem witness_StepIsIdleWhileHaltedOrWaiting : (State.reset.setHalt true .stackOverflow).halt = true ∧
    (State.reset.setWait true 5#4).halt = false ∧ (State.reset.setWait true 5#4).wait = true := by decide
theorem witness_FailedStepChangesOnlyPcHaltAndErr : (start 0x00EE []).Running ∧
    ∃ t, step (start 0x00EE []) = .next t ∧ t.halt = true := ⟨by decide, _, rfl, rfl⟩
theorem witness_StepAlwaysAnswersANextState : ∃ s : State, s.Inv ∧ s.pc = 0xFFF#16 := ⟨_, atLimits_inv, rfl⟩
theorem witness_EveryStepKeepsTheInvariant : ∃ s t : State, s.Inv ∧ step s = .next t ∧ t.pc = 0x001#16 :=
  ⟨_, _, atLimits_inv, rfl, by decide⟩
theorem witness_EveryTransactionAnswersAndKeepsTheInvariant : ∃ s : State, s.Inv ∧ s.sp.val = 16 := ⟨_, atLimits_inv, rfl⟩
theorem witness_EveryRunOfTransactionsKeepsTheInvariant : ∃ s : State, s.Inv ∧ s.i = 0xFFF#16 := ⟨_, atLimits_inv, rfl⟩
theorem witness_OnlyResetLeavesTheHaltedState : (State.reset.setHalt true .stackOverflow).halt = true ∧
    Transaction.tickTimers ≠ .reset ∧
    (∃ r t, transactLive .tickTimers (State.reset.setHalt true .stackOverflow) = .next (r, t)) ∧
    ∃ r t, transactLive .reset (State.reset.setHalt true .stackOverflow) = .next (r, t) :=
  ⟨rfl, by decide, ⟨_, _, rfl⟩, _, _, rfl⟩
theorem witness_ErrorsAreRaisedExactlyWhenListed : (withSp 16).errorOf (.call 0x300#12) = some .stackOverflow ∧
    (withSp 0).errorOf .ret = some .stackUnderflow ∧ (withI 0xFFE).errorOf (.ldB 0#4) = some .outOfBoundsAddress ∧
    (withI 0xFFF).errorOf (.ldMemVx 1#4) = some .outOfBoundsAddress ∧
    (withI 0xFF1).errorOf (.ldVxMem 0xF#4) = some .outOfBoundsAddress ∧
    (withI 0xFFF).errorOf (.drw 0#4 0#4 2#4) = some .outOfBoundsAddress := by decide
theorem witness_ErrorsAreRaisedExactlyWhenListed_none : (withSp 15).errorOf (.call 0x300#12) = none ∧
    (withSp 1).errorOf .ret = none ∧ (withI 0xFFD).errorOf (.ldB 0#4) = none ∧ (withI 0xFFF).errorOf (.ldMemVx 0#4) = none ∧
    (withI 0xFF0).errorOf (.ldVxMem 0xF#4) = none ∧ (withI 0xFFF).errorOf (.drw 0#4 0#4 0#4) = none := by decide
theorem witness_InstructionsWriteOnlyWhatTheAccessMatrixAllows : ∃ t, exec (.ldImm 3#4 7#8) State.reset = .next t ∧
    ¬ writesReg 4#4 (.ldImm 3#4 7#8) ∧ ¬ writesI (.ldImm 3#4 7#8) ∧ ¬ writesPc (.ldImm 3#4 7#8) ∧
    ¬ writesStack (.ldImm 3#4 7#8) ∧ ¬ writesMem (.ldImm 3#4 7#8) ∧ ¬ writesFb (.ldImm 3#4 7#8) ∧
    (∀ x, Instr.ldImm 3#4 7#8 ≠ .ldDtVx x) ∧ (∀ x, Instr.ldImm 3#4 7#8 ≠ .ldStVx x) ∧
    (∀ x, Instr.ldImm 3#4 7#8 ≠ .ldVxK x) ∧ (∀ nnn, Instr.ldImm 3#4 7#8 ≠ .sys nnn) ∧
    ∀ x nn, Instr.ldImm 3#4 7#8 ≠ .rnd x nn := by
  refine ⟨_, rfl, ?_⟩
  simp [writesReg, writesI, writesPc, writesStack, writesMem, writesFb]
theorem witness_KeysAreReadOnlyByTheKeySkips : (∀ x, Instr.cls ≠ .skp x ∧ Instr.cls ≠ .sknp x) ∧
    ∃ t, exec .cls State.reset = .next t := ⟨by simp, _, rfl⟩
theorem witness_DiagInfluencesNothing : ∃ t, step (start 0x0000 []) = .next t := ⟨_, rfl⟩
theorem witness_SoundTimerIsReadByNoInstruction : (∃ t, exec .cls State.reset = .next t) ∧ (∀ x, Instr.cls ≠ .ldStVx x) ∧
    (∃ t, exec (.ldStVx 3#4) State.reset = .next t) ∧ ∃ x, Instr.ldStVx 3#4 = .ldStVx x :=
  ⟨⟨_, rfl⟩, by simp, ⟨_, rfl⟩, _, rfl⟩
theorem witness_SkipsMovePcByTwoWhenTheirConditionHolds : (start 0 [(0xA#4, 5#8)]).reg 0xA#4 = 5#8 ∧
    (start 0 [(0xA#4, 6#8)]).reg 0xA#4 ≠ 5#8 ∧ (start 0 []).reg 1#4 = (start 0 []).reg 2#4 ∧
    (start 0 [(1#4, 7#8)]).reg 1#4 ≠ (start 0 [(1#4, 7#8)]).reg 2#4 := by decide
theorem witness_CallPushesAndJumps : (withSp 15).sp.val < 16 ∧ (withSp 0).sp.val < 16 ∧
    ∀ k : Fin 16, k.val ≠ 0 → k.val ≠ (withSp 0).sp.val := by decide
theorem witness_ReturnPopsIntoPc : (withSp 1).sp.val = (0 : Fin 16).val + 1 ∧ (withSp 16).sp.val = (15 : Fin 16).val + 1 := by
  decide
theorem witness_CallAndReturnRaiseAtTheLimits : (withSp 16).sp.val = 16 ∧ (withSp 0).sp.val = 0 := by decide
theorem witness_CallThenReturnRestoresPc : (withSp 15).sp.val < 16 ∧ ∃ k : Fin 16, k.val < (withSp 15).sp.val := by decide
theorem witness_JumpToSelfLeavesTheStateUnchanged : (start 0x1200 []).EndedNormally :=
  ⟨by decide, 0x200#12, by decide, by rfl⟩
/-- The hypothesis of the flag clauses of the arithmetic statements. -/
theorem witness_AddRegistersGivesSumAndCarry : (0xE#4 : Nibble) ≠ 0xF#4 := by decide
theorem witness_SubtractionsGiveDifferenceAndNoBorrow : (0x0#4 : Nibble) ≠ 0xF#4 := by decide
theorem witness_ShiftsGiveResultAndBitMovedOut : (0x1#4 : Nibble) ≠ 0xF#4 := by decide
theorem witness_LogicActsOnEveryBitWithoutAFlag : ∃ k, k < 8 ∧ k = 7 := by decide
theorem witness_RandomIsMaskedByTheImmediate : (0x0F#8).getLsbD 7 = false := by decide
theorem witness_BcdStoresThreeDigits : (withI 0xFFD).i.toNat + 2 ≤ 0xFFF := by decide
theorem witness_RegisterDumpStoresV0ToVx : (withI 0xFFF).i.toNat + (0#4 : Nibble).toNat ≤ 0xFFF ∧
    (withI 0xFF0).i.toNat + (0xF#4 : Nibble).toNat ≤ 0xFFF ∧ (0xF#4 : Nibble).toNat ≤ (0xF#4 : Nibble).toNat := by decide
theorem witness_RegisterLoadFillsV0ToVx : (withI 0xFFD).i.toNat + (2#4 : Nibble).toNat ≤ 0xFFF ∧
    (2#4 : Nibble).toNat ≤ (2#4 : Nibble).toNat ∧ (3#4 : Nibble).toNat > (2#4 : Nibble).toNat := by decide
theorem witness_OutOfBoundsRaisesBeforeAnyWrite : (withI 0xFFE).i.toNat + 2 > 0xFFF ∧
    (withI 0xFF1).i.toNat + (0xF#4 : Nibble).toNat > 0xFFF ∧ (1#4 : Nibble).toNat > 0 ∧ (withI 0x1000).i.toNat + 1 - 1 > 0xFFF ∧
    (0xF#4 : Nibble).toNat > 0 ∧ (withI 0xFF2).i.toNat + (0xF#4 : Nibble).toNat - 1 > 0xFFF := by decide
theorem witness_DumpThenLoadRestoresTheRegisters : (withI 0xFFC).i.toNat + (3#4 : Nibble).toNat ≤ 0xFFF ∧
    (3#4 : Nibble).toNat ≤ (3#4 : Nibble).toNat := by decide
theorem witness_MemoryReadsGiveTheLastByteWritten : (0xFFF : Nat) ≤ 0xFFF ∧ (0x1000 : Nat) > 0xFFF ∧ (0xFFE : Nat) ≠ 0xFFF := by
  decide
theorem witness_CanonicalMemoriesWithEqualBytesAreEqual : ∃ m : Memory, m.wf ∧ m ≠ [] := ⟨[(0x200, 1#8), (0xFFF, 2#8)], by decide⟩
/-- N = 0 at the last address, and a sprite whose last byte is at the last address. -/
theorem witness_DrawFlipsExactlyTheCoveredCells_bounds : ((0#4 : Nibble).toNat = 0) ∧
    (withI 0xFF1).i.toNat + (0xF#4 : Nibble).toNat - 1 ≤ 0xFFF := by decide

/-- One lit pixel of a one-row sprite at (0, 0), on a screen where that cell is on or off. -/
def spriteState (on : Bool) : State :=
  withBytes ((withI 0xFFF).setFb (Framebuffer.setCell Framebuffer.clear 0 0 on)) 0xFFF [0x80#8]

theorem spriteState_covers (on : Bool) (cx : Fin 64) (cy : Fin 32) :
    SpriteCovers (spriteState on) 0#4 0#4 1#4 cx cy ↔ cx = 0 ∧ cy = 0 := by
  have h0 : (spriteState on).reg 0#4 = 0#8 := by cases on <;> rfl
  have hm : (spriteState on).mem.read 0xFFF = 0x80#8 := by cases on <;> rfl
  have hi : (spriteState on).i.toNat = 0xFFF := by cases on <;> rfl
  constructor
  · rintro ⟨row, hr, col, hc, hb, hx, hy⟩
    have hr0 : row = 0 := by simpa using hr
    subst hr0
    rw [hi, Nat.add_zero, hm] at hb
    have hc0 : col = 0 := (by decide : ∀ c < 8, (0x80#8).getLsbD (7 - c) = true → c = 0) col hc hb
    subst hc0
    rw [h0] at hx hy
    exact ⟨Fin.ext hx, Fin.ext hy⟩
  · rintro ⟨rfl, rfl⟩
    exact ⟨0, by decide, 0, by decide, by rw [hi, Nat.add_zero, hm]; decide, by rw [h0]; rfl, by rw [h0]; rfl⟩

theorem witness_DrawFlipsExactlyTheCoveredCells_collision : (spriteState true).i.toNat + (1#4 : Nibble).toNat - 1 ≤ 0xFFF ∧
    (∃ cx cy, SpriteCovers (spriteState true) 0#4 0#4 1#4 cx cy ∧ cell (spriteState true) cx cy = true) ∧
    ¬ SpriteCovers (spriteState true) 0#4 0#4 1#4 1 0 :=
  ⟨by decide, ⟨0, 0, (spriteState_covers _ _ _).2 ⟨rfl, rfl⟩, by decide⟩, fun h => by simp [spriteState_covers] at h⟩
theorem witness_DrawFlipsExactlyTheCoveredCells_noCollision : ∀ cx cy,
    SpriteCovers (spriteState false) 0#4 0#4 1#4 cx cy → cell (spriteState false) cx cy = false := by
  intro cx cy h
  obtain ⟨rfl, rfl⟩ := (spriteState_covers _ _ _).1 h
  decide
theorem witness_DrawingTwiceRestoresTheFramebuffer : (0#4 : Nibble) ≠ 0xF#4 ∧ (0xE#4 : Nibble) ≠ 0xF#4 ∧
    (withI 0xFF1).i.toNat + (0xF#4 : Nibble).toNat - 1 ≤ 0xFFF := by decide
theorem witness_KeySkipsFollowTheKeyState : ((start 0 [(3#4, 16#8)]).reg 3#4).toNat > 15 ∧
    ((start 0 [(3#4, 15#8)]).reg 3#4).toNat = (15 : Fin 16).val ∧ (start 0 [(3#4, 15#8)]).key[15] = false ∧
    ((start 0 [(3#4, 15#8)]).setKey 15 true).key[15] = true := by decide
theorem witness_KeyWaitEndsWithTheNextPress : State.reset.halt = false ∧ 15 < 16 := by decide
theorem witness_SetKeyWritesTheSlotAndResolvesAWait : 16 > 15 ∧ 15 ≤ 15 ∧ (State.reset.setWait true 5#4).wait = true ∧
    State.reset.wait = false := by decide
theorem witness_LoadProgramCopiesTheBytesOrChangesNothing : (List.replicate 3584 0x12#8).length ≤ 3584 ∧
    (List.replicate 3585 0x12#8).length > 3584 := by rw [List.length_replicate, List.length_replicate]; decide
theorem witness_LaunchIsResetWithTheProgramInMemory : (List.replicate 3584 0x12#8).length ≤ 3584 := by
  rw [List.length_replicate]
theorem witness_ResetZeroesTheMachineFromAnywhere : Transaction.step ≠ .reset := by decide

end Sys2Proof.Tests
end

/-! ### Proofs: jumps (spec/41_flow.md R102, R108) -/

namespace Sys2Proof.Machine

/-- Writing PC touches memory, framebuffer, stack, timers, keys and status nowhere. -/
theorem State.setPc_sameOutside (s : State) (w : Word) : SameOutside s (s.setPc w) := by
  have status : SameStatus s (s.setPc w) := ⟨rfl, rfl, rfl, rfl, rfl⟩
  exact ⟨fun _ _ => rfl, fun _ _ => rfl, ⟨rfl, fun _ => rfl⟩, ⟨rfl, rfl⟩, fun _ => rfl, status⟩

/-- The frame of a PC write, which every jump and skip shares. -/
theorem State.setPc_onlyPcChanges (s : State) (w : Word) : OnlyPcChanges s (s.setPc w) :=
  ⟨fun r _ => s.setPc_reg w r, s.setPc_i w, s.setPc_draws w, s.setPc_sameOutside w⟩

/-- The whole next state of JP NNN (R102). -/
theorem exec_jp_eq (nnn : Addr12) (s : State) : exec (.jp nnn) s = .next (s.setPc (addrWord nnn)) := rfl

/-- The whole next state of JP V0, NNN (R108). -/
theorem exec_jpV0_eq (nnn : Addr12) (s : State) :
    exec (.jpV0 nnn) s = .next (s.setPc (wrap12 (nnn.toNat + (s.reg 0#4).toNat))) := rfl

/-- Settles O24: JP writes PC alone, and widening NNN to 16 bits keeps its value. -/
theorem jumpSetsPc : Obligations.JumpSetsPc := by
  intro nnn s
  have hpc : (s.setPc (addrWord nnn)).pc.toNat = nnn.toNat := by
    rw [State.setPc_pc, addrWord_toNat]
  exact ⟨_, exec_jp_eq nnn s, hpc, s.setPc_onlyPcChanges _⟩

/-- Settles O25: JP V0 writes PC alone, with the 12-bit wrap of NNN + V0. -/
theorem jumpWithOffsetAddsV0 : Obligations.JumpWithOffsetAddsV0 := by
  intro nnn s
  have hpc : (s.setPc (wrap12 (nnn.toNat + (s.reg 0#4).toNat))).pc.toNat =
      (nnn.toNat + (s.reg 0#4).toNat) % 4096 := by
    rw [State.setPc_pc, wrap12_toNat]
  exact ⟨_, exec_jpV0_eq nnn s, hpc, s.setPc_onlyPcChanges _⟩

end Sys2Proof.Machine

/-! ### Proofs: register loads, immediate addition and bitwise logic (spec/42_alu.md R120 to R125) -/

namespace Sys2Proof.Machine

/-- Writing a register touches memory, framebuffer, stack, timers, keys and status nowhere. -/
theorem State.setReg_sameOutside (s : State) (x : Nibble) (b : Byte) : SameOutside s (s.setReg x b) := by
  have status : SameStatus s (s.setReg x b) := ⟨rfl, rfl, rfl, rfl, rfl⟩
  exact ⟨fun _ _ => rfl, fun _ _ => rfl, ⟨rfl, fun _ => rfl⟩, ⟨rfl, rfl⟩, fun _ => rfl, status⟩

/-- The frame of a register write, which every instruction without a flag shares: VF is kept unless it is the target. -/
theorem State.setReg_onlyRegsChange (s : State) (x : Nibble) (b : Byte) : OnlyRegsChange [x] s (s.setReg x b) := by
  have regs : SameRegsBut [x] s (s.setReg x b) := fun r hr => s.reg_setReg_ne x r b (List.ne_of_not_mem_cons hr)
  exact ⟨regs, s.setReg_i x b, s.setReg_pc x b, s.setReg_draws x b, s.setReg_sameOutside x b⟩

/-- The whole next state of LD Vx, NN (R120). -/
theorem exec_ldImm_eq (x : Nibble) (nn : Byte) (s : State) : exec (.ldImm x nn) s = .next (s.setReg x nn) := rfl

/-- The whole next state of ADD Vx, NN (R121). -/
theorem exec_addImm_eq (x : Nibble) (nn : Byte) (s : State) :
    exec (.addImm x nn) s = .next (s.setReg x (s.reg x + nn)) := rfl

/-- The whole next state of LD Vx, Vy (R122). -/
theorem exec_ldReg_eq (x y : Nibble) (s : State) : exec (.ldReg x y) s = .next (s.setReg x (s.reg y)) := rfl

/-- The whole next state of OR Vx, Vy (R123). -/
theorem exec_orReg_eq (x y : Nibble) (s : State) :
    exec (.orReg x y) s = .next (s.setReg x (s.reg x ||| s.reg y)) := rfl

/-- The whole next state of AND Vx, Vy (R124). -/
theorem exec_andReg_eq (x y : Nibble) (s : State) :
    exec (.andReg x y) s = .next (s.setReg x (s.reg x &&& s.reg y)) := rfl

/-- The whole next state of XOR Vx, Vy (R125). -/
theorem exec_xorReg_eq (x y : Nibble) (s : State) :
    exec (.xorReg x y) s = .next (s.setReg x (s.reg x ^^^ s.reg y)) := rfl

/-- Settles O32: both loads write their source to Vx by one register write, for X = F and X = Y as well. -/
theorem registerLoadsCopyTheirSource : Obligations.RegisterLoadsCopyTheirSource := by
  constructor
  · intro x nn s
    exact ⟨_, exec_ldImm_eq x nn s, s.reg_setReg_same x nn, s.setReg_onlyRegsChange x nn⟩
  · intro x y s
    exact ⟨_, exec_ldReg_eq x y s, s.reg_setReg_same x _, s.setReg_onlyRegsChange x _⟩

/-- Settles O33: the sum of two bytes is the sum modulo 256, and it is the only thing written. -/
theorem addImmediateWrapsWithoutAFlag : Obligations.AddImmediateWrapsWithoutAFlag := by
  intro x nn s
  have hsum : ((s.setReg x (s.reg x + nn)).reg x).toNat = ((s.reg x).toNat + nn.toNat) % 256 := by
    rw [State.reg_setReg_same, BitVec.toNat_add]
  exact ⟨_, exec_addImm_eq x nn s, hsum, s.setReg_onlyRegsChange x _⟩

/-- Settles O34: Vx receives the bitwise result by one register write, read back bit by bit. -/
theorem logicActsOnEveryBitWithoutAFlag : Obligations.LogicActsOnEveryBitWithoutAFlag := by
  refine ⟨fun x y s => ?or, fun x y s => ?and, fun x y s => ?xor⟩
  case or =>
    refine ⟨_, exec_orReg_eq x y s, s.setReg_onlyRegsChange x _, fun k _ => ?_⟩
    rw [State.reg_setReg_same, BitVec.getLsbD_or]
  case and =>
    refine ⟨_, exec_andReg_eq x y s, s.setReg_onlyRegsChange x _, fun k _ => ?_⟩
    rw [State.reg_setReg_same, BitVec.getLsbD_and]
  case xor =>
    refine ⟨_, exec_xorReg_eq x y s, s.setReg_onlyRegsChange x _, fun k _ => ?_⟩
    rw [State.reg_setReg_same, BitVec.getLsbD_xor]

end Sys2Proof.Machine

/-! ### Proofs: the updates of I (spec/43_index_memory.md R140, R141, R142) -/

namespace Sys2Proof.Machine

/-- Writing I touches memory, framebuffer, stack, timers, keys and status nowhere. -/
theorem State.setI_sameOutside (s : State) (w : Word) : SameOutside s (s.setI w) := by
  have status : SameStatus s (s.setI w) := ⟨rfl, rfl, rfl, rfl, rfl⟩
  exact ⟨fun _ _ => rfl, fun _ _ => rfl, ⟨rfl, fun _ => rfl⟩, ⟨rfl, rfl⟩, fun _ => rfl, status⟩

/-- The frame of a write of I, which the three updates share: every register is kept, VF included. -/
theorem State.setI_onlyIChanges (s : State) (w : Word) : OnlyIChanges s (s.setI w) :=
  ⟨fun r _ => s.setI_reg w r, s.setI_pc w, s.setI_draws w, s.setI_sameOutside w⟩

/-- A glyph's address is five times the whole byte (R142): the largest, 255 * 5, still fits a 16-bit register. -/
theorem glyphAddr_toNat (b : Byte) : (glyphAddr b).toNat = b.toNat * 5 := by
  have fits : b.toNat * Config.glyphStride < 2 ^ 16 := by
    have := b.isLt
    simp only [Config.glyphStride]
    omega
  rw [glyphAddr, BitVec.toNat_ofNat, Nat.mod_eq_of_lt fits]

/-- The whole next state of LD I, NNN (R140). -/
theorem exec_ldI_eq (nnn : Addr12) (s : State) : exec (.ldI nnn) s = .next (s.setI (addrWord nnn)) := rfl

/-- The whole next state of ADD I, Vx (R141). -/
theorem exec_addI_eq (x : Nibble) (s : State) :
    exec (.addI x) s = .next (s.setI (wrap12 (s.i.toNat + (s.reg x).toNat))) := rfl

/-- The whole next state of LD F, Vx (R142). -/
theorem exec_ldF_eq (x : Nibble) (s : State) : exec (.ldF x) s = .next (s.setI (glyphAddr (s.reg x))) := rfl

/-- Settles O39: each of the three writes I alone, with NNN widened, the 12-bit wrap of I + Vx, or the glyph address. -/
theorem indexUpdates : Obligations.IndexUpdates := by
  refine ⟨fun nnn s => ?ldI, fun x s => ?addI, fun x s => ?ldF⟩
  case ldI => exact ⟨_, exec_ldI_eq nnn s, addrWord_toNat nnn, s.setI_onlyIChanges _⟩
  case addI => exact ⟨_, exec_addI_eq x s, wrap12_toNat _, s.setI_onlyIChanges _⟩
  case ldF => exact ⟨_, exec_ldF_eq x s, glyphAddr_toNat _, s.setI_onlyIChanges _⟩

end Sys2Proof.Machine

/-! ### Proofs: clearing the screen (spec/44_display.md R150) -/

namespace Sys2Proof.Machine

/-- Replacing the framebuffer touches registers, memory, stack, timers, keys and status nowhere: every register is kept,
VF included. -/
theorem State.setFb_frame (s : State) (fb : Framebuffer) :
    SameRegsBut [] s (s.setFb fb) ∧ (s.setFb fb).i = s.i ∧ (s.setFb fb).pc = s.pc ∧ (s.setFb fb).draws = s.draws ∧
      SameBytes s (s.setFb fb) ∧ SameStack s (s.setFb fb) ∧ SameTimers s (s.setFb fb) ∧ SameKeys s (s.setFb fb) ∧
      SameStatus s (s.setFb fb) := by
  have regs : SameRegsBut [] s (s.setFb fb) := fun r _ => s.setFb_reg fb r
  have status : SameStatus s (s.setFb fb) := ⟨rfl, rfl, rfl, rfl, rfl⟩
  exact ⟨regs, s.setFb_i fb, s.setFb_pc fb, s.setFb_draws fb, fun _ _ => rfl, ⟨rfl, fun _ => rfl⟩, ⟨rfl, rfl⟩,
    fun _ => rfl, status⟩

/-- The whole next state of CLS (R150). -/
theorem exec_cls_eq (s : State) : exec .cls s = .next (s.setFb Framebuffer.clear) := rfl

/-- Settles O47: CLS writes the framebuffer alone, with the blank one, whose cells are all off. -/
theorem clearScreenTurnsEveryCellOff : Obligations.ClearScreenTurnsEveryCellOff := by
  intro s
  have off : ∀ x y, Framebuffer.cell (s.setFb Framebuffer.clear).fb x y = false := fun x y => by
    rw [State.setFb_fb, Framebuffer.cell_clear]
  exact ⟨_, exec_cls_eq s, off, s.setFb_frame _⟩

end Sys2Proof.Machine

/-! ### Proofs: the timer moves (spec/45_keys_timers.md R163, R164, R165) -/

namespace Sys2Proof.Machine

/-- Everything but the two timers keeps its value. -/
def OnlyTimersChange (s t : State) : Prop :=
  SameRegsBut [] s t ∧ t.i = s.i ∧ t.pc = s.pc ∧ t.draws = s.draws ∧ SameBytes s t ∧ SameCells s t ∧ SameStack s t ∧
    SameKeys s t ∧ SameStatus s t

/-- Writing DT and ST touches nothing else; VF is kept with the other registers. -/
theorem State.setDt_setSt_onlyTimersChange (s : State) (d e : Byte) : OnlyTimersChange s ((s.setDt d).setSt e) := by
  have regs : SameRegsBut [] s ((s.setDt d).setSt e) := fun r _ => by rw [State.setSt_reg, State.setDt_reg]
  have status : SameStatus s ((s.setDt d).setSt e) := ⟨rfl, rfl, rfl, rfl, rfl⟩
  exact ⟨regs, rfl, rfl, rfl, fun _ _ => rfl, fun _ _ => rfl, ⟨rfl, fun _ => rfl⟩, fun _ => rfl, status⟩

/-- The frame of a write of DT: it is a write of both timers that puts ST's own value back. -/
theorem State.setDt_onlyTimersChange (s : State) (b : Byte) : OnlyTimersChange s (s.setDt b) :=
  s.setDt_setSt_onlyTimersChange b s.st

/-- The frame of a write of ST: it is a write of both timers that puts DT's own value back. -/
theorem State.setSt_onlyTimersChange (s : State) (b : Byte) : OnlyTimersChange s (s.setSt b) :=
  s.setDt_setSt_onlyTimersChange s.dt b

/-- The sound port is active exactly while ST is not 0 (R184). -/
theorem State.soundTimerActive_iff (s : State) : s.soundTimerActive = true ↔ s.st.toNat ≠ 0 := by
  rw [State.soundTimerActive, decide_eq_true_iff, gt_iff_lt, Nat.pos_iff_ne_zero]

/-- The whole next state of LD Vx, DT (R163). -/
theorem exec_ldVxDt_eq (x : Nibble) (s : State) : exec (.ldVxDt x) s = .next (s.setReg x s.dt) := rfl

/-- The whole next state of LD DT, Vx (R164). -/
theorem exec_ldDtVx_eq (x : Nibble) (s : State) : exec (.ldDtVx x) s = .next (s.setDt (s.reg x)) := rfl

/-- The whole next state of LD ST, Vx (R165). -/
theorem exec_ldStVx_eq (x : Nibble) (s : State) : exec (.ldStVx x) s = .next (s.setSt (s.reg x)) := rfl

/-- Settles O53: each move is one write of its target, and the sound port reads the ST just written. -/
theorem timerMovesCopyDirectly : Obligations.TimerMovesCopyDirectly := by
  refine ⟨fun x s => ?ldVxDt, fun x s => ?ldDtVx, fun x s => ?ldStVx⟩
  case ldVxDt => exact ⟨_, exec_ldVxDt_eq x s, s.reg_setReg_same x _, s.setReg_onlyRegsChange x _⟩
  case ldDtVx => exact ⟨_, exec_ldDtVx_eq x s, s.setDt_dt _, s.setDt_st _, s.setDt_onlyTimersChange _⟩
  case ldStVx =>
    have port : (s.setSt (s.reg x)).soundTimerActive = true ↔ (s.reg x).toNat ≠ 0 := by
      rw [State.soundTimerActive_iff, State.setSt_st]
    exact ⟨_, exec_ldStVx_eq x s, s.setSt_st _, s.setSt_dt _, port, s.setSt_onlyTimersChange _⟩

end Sys2Proof.Machine

/-! ### Proofs: the timers' tick (spec/60_exceptions.md R180) -/

namespace Sys2Proof.Machine

/-- A tick is subtraction floored at 0, which is subtraction of natural numbers. -/
theorem tickDown_toNat (b : Byte) : (tickDown b).toNat = b.toNat - 1 := by
  unfold tickDown
  split
  case isTrue positive =>
    have noBorrow : 1#8 ≤ b := BitVec.le_def.mpr positive
    rw [BitVec.toNat_sub_of_le noBorrow, BitVec.toNat_ofNat]
  case isFalse zero => omega

/-- The whole answer of TickTimers (R180): HALT and WAIT do not hold it up. -/
theorem transactLive_tickTimers_eq (s : State) :
    transactLive .tickTimers s = .next (.done, (s.setDt (tickDown s.dt)).setSt (tickDown s.st)) := rfl

/-- Settles O54: the transaction is one write of both timers, each with its own old value ticked down. -/
theorem tickDecrementsBothTimersDownToZero : Obligations.TickDecrementsBothTimersDownToZero := by
  intro s
  exact ⟨_, transactLive_tickTimers_eq s, tickDown_toNat s.dt, tickDown_toNat s.st,
    s.setDt_setSt_onlyTimersChange _ _⟩

end Sys2Proof.Machine

/-! ### Proofs: the encoder and the decoder (spec/30_encoding.md R70 to R81) -/

namespace Sys2Proof

/-- Settles O1: the fields of the encoded word are the instruction's operands, family by family; the check on SYS keeps its
word apart from those of CLS and RET. -/
theorem decodeOfEncodeIsTheInstruction : Obligations.DecodeOfEncodeIsTheInstruction := by
  intro i wf
  cases i with
  | sys nnn =>
    obtain ⟨notCls, notRet⟩ := wf
    have apart : ∀ c : Addr12, nnn ≠ c → formatA 0x0#4 nnn ≠ formatA 0x0#4 c := fun c hne heq =>
      hne (by simpa using congrArg opNNN heq)
    have wordNotCls : formatA 0x0#4 nnn ≠ 0x00E0#16 := apart 0x0E0#12 notCls
    have wordNotRet : formatA 0x0#4 nnn ≠ 0x00EE#16 := apart 0x0EE#12 notRet
    simp [encode, decode, decode0, wordNotCls, wordNotRet]
  | cls => rfl
  | ret => rfl
  | _ => simp [encode, decode, decode8, decodeE, decodeF]

/-! #### A word of known fixed fields is the encoding of its other fields -/

/-- A word of family `t`, in format A. -/
theorem formatA_of_fields {op : Word} {t : Nibble} (hT : (opT op).toNat = t.toNat) : formatA t (opNNN op) = op :=
  BitVec.eq_of_toNat_eq hT ▸ formatA_fields op

/-- A word of family `t` and low byte `nn`, in format XI. -/
theorem formatXI_of_fields {op : Word} {t : Nibble} {nn : Byte} (hT : (opT op).toNat = t.toNat) (hNN : opNN op = nn) :
    formatXI t (opX op) nn = op :=
  hNN ▸ BitVec.eq_of_toNat_eq hT ▸ formatXI_fields op

/-- A word of family `t` and low nibble `n`, in format XY. -/
theorem formatXY_of_fields {op : Word} {t n : Nibble} (hT : (opT op).toNat = t.toNat) (hN : (opN op).toNat = n.toNat) :
    formatXY t (opX op) (opY op) n = op :=
  BitVec.eq_of_toNat_eq hN ▸ BitVec.eq_of_toNat_eq hT ▸ formatXY_fields op

/-- Family 0x0: SYS is what is left when the word is neither CLS nor RET. -/
theorem encode_decode0 {op : Word} (hT : (opT op).toNat = 0x0) : (decode0 op).WellFormed ∧ encode (decode0 op) = op := by
  have word : formatA 0x0#4 (opNNN op) = op := formatA_of_fields hT
  unfold decode0
  split_ifs with isCls isRet
  · exact ⟨trivial, isCls.symm⟩
  · exact ⟨trivial, isRet.symm⟩
  · have notCls : opNNN op ≠ 0x0E0#12 := fun h => isCls (by rw [← word, h]; rfl)
    have notRet : opNNN op ≠ 0x0EE#12 := fun h => isRet (by rw [← word, h]; rfl)
    exact ⟨⟨notCls, notRet⟩, word⟩

theorem encode_of_decode8 {op : Word} {i : Instr} (hT : (opT op).toNat = 0x8) (h : decode8 op = .ok i) :
    i.WellFormed ∧ encode i = op := by
  unfold decode8 at h
  split at h <;> cases h
  all_goals exact ⟨trivial, formatXY_of_fields hT ‹_›⟩

theorem encode_of_decodeE {op : Word} {i : Instr} (hT : (opT op).toNat = 0xE) (h : decodeE op = .ok i) :
    i.WellFormed ∧ encode i = op := by
  unfold decodeE at h
  split_ifs at h <;> cases h
  all_goals exact ⟨trivial, formatXI_of_fields hT ‹_›⟩

theorem encode_of_decodeF {op : Word} {i : Instr} (hT : (opT op).toNat = 0xF) (h : decodeF op = .ok i) :
    i.WellFormed ∧ encode i = op := by
  unfold decodeF at h
  split_ifs at h <;> cases h
  all_goals exact ⟨trivial, formatXI_of_fields hT ‹_›⟩

/-- Settles O2: the encoder puts the fields of a word back together, family by family. -/
theorem encodeOfDecodeIsTheWord : Obligations.EncodeOfDecodeIsTheWord := by
  intro op i h
  unfold decode at h
  split at h
  case h_1 hT =>
    obtain rfl := Except.ok.inj h
    exact encode_decode0 hT
  case h_9 hT => exact encode_of_decode8 hT h
  case h_15 hT => exact encode_of_decodeE hT h
  case h_16 =>
    refine encode_of_decodeF ?_ h
    have bound := (opT op).isLt
    simp only [imp_false] at *
    omega
  case h_6 hT | h_10 hT =>
    split_ifs at h with hN
    obtain rfl := Except.ok.inj h
    exact ⟨trivial, formatXY_of_fields hT (congrArg BitVec.toNat hN)⟩
  case h_2 hT | h_3 hT | h_11 hT | h_12 hT =>
    obtain rfl := Except.ok.inj h
    exact ⟨trivial, formatA_of_fields hT⟩
  case h_14 hT =>
    obtain rfl := Except.ok.inj h
    exact ⟨trivial, formatXY_of_fields hT rfl⟩
  all_goals
    obtain rfl := Except.ok.inj h
    exact ⟨trivial, formatXI_of_fields ‹_› rfl⟩

/-! #### The opcode map -/

/-- Every well-formed instruction's word selects the row that bears the instruction's name. -/
theorem encode_selects_row (i : Instr) : Laws.EncodeMatchesRow.Statement i := by
  cases i with
  | sys nnn => exact Laws.EncodeMatchesRow.sys nnn
  | cls => exact Laws.EncodeMatchesRow.cls
  | ret => exact Laws.EncodeMatchesRow.ret
  | jp nnn => exact Laws.EncodeMatchesRow.jp nnn
  | call nnn => exact Laws.EncodeMatchesRow.call nnn
  | seImm x nn => exact Laws.EncodeMatchesRow.seImm x nn
  | sneImm x nn => exact Laws.EncodeMatchesRow.sneImm x nn
  | seReg x y => exact Laws.EncodeMatchesRow.seReg x y
  | ldImm x nn => exact Laws.EncodeMatchesRow.ldImm x nn
  | addImm x nn => exact Laws.EncodeMatchesRow.addImm x nn
  | ldReg x y => exact Laws.EncodeMatchesRow.ldReg x y
  | orReg x y => exact Laws.EncodeMatchesRow.orReg x y
  | andReg x y => exact Laws.EncodeMatchesRow.andReg x y
  | xorReg x y => exact Laws.EncodeMatchesRow.xorReg x y
  | addReg x y => exact Laws.EncodeMatchesRow.addReg x y
  | sub x y => exact Laws.EncodeMatchesRow.sub x y
  | shr x y => exact Laws.EncodeMatchesRow.shr x y
  | subn x y => exact Laws.EncodeMatchesRow.subn x y
  | shl x y => exact Laws.EncodeMatchesRow.shl x y
  | sneReg x y => exact Laws.EncodeMatchesRow.sneReg x y
  | ldI nnn => exact Laws.EncodeMatchesRow.ldI nnn
  | jpV0 nnn => exact Laws.EncodeMatchesRow.jpV0 nnn
  | rnd x nn => exact Laws.EncodeMatchesRow.rnd x nn
  | drw x y n => exact Laws.EncodeMatchesRow.drw x y n
  | skp x => exact Laws.EncodeMatchesRow.skp x
  | sknp x => exact Laws.EncodeMatchesRow.sknp x
  | ldVxDt x => exact Laws.EncodeMatchesRow.ldVxDt x
  | ldVxK x => exact Laws.EncodeMatchesRow.ldVxK x
  | ldDtVx x => exact Laws.EncodeMatchesRow.ldDtVx x
  | ldStVx x => exact Laws.EncodeMatchesRow.ldStVx x
  | addI x => exact Laws.EncodeMatchesRow.addI x
  | ldF x => exact Laws.EncodeMatchesRow.ldF x
  | ldB x => exact Laws.EncodeMatchesRow.ldB x
  | ldMemVx x => exact Laws.EncodeMatchesRow.ldMemVx x
  | ldVxMem x => exact Laws.EncodeMatchesRow.ldVxMem x

/-- The fields that a mask of the map fixes. -/
theorem opT_of_F000 {op p : Word} (h : op &&& 0xF000#16 = p) : opT op = opT p := by
  rw [← h, and_F000, opT_formatA]

theorem fields_of_F00F {op p : Word} (h : op &&& 0xF00F#16 = p) : opT op = opT p ∧ opN op = opN p := by
  rw [← h, and_F00F, opT_formatXY, opN_formatXY]
  exact ⟨rfl, rfl⟩

theorem fields_of_F0FF {op p : Word} (h : op &&& 0xF0FF#16 = p) : opT op = opT p ∧ opNN op = opNN p := by
  rw [← h, and_F0FF, opT_formatXI, opNN_formatXI]
  exact ⟨rfl, rfl⟩

/-- The decoder reads a word under a name of the map. -/
def DecodesAs (name : String) (op : Word) : Prop := ∃ i, decode op = .ok i ∧ i.mnemonic = name

theorem decodesAs_of_selects_low (op : Word) : ∀ row ∈ opcodeMapLow, row.Selects op → DecodesAs row.mnemonic op := by
  simp only [opcodeMapLow, List.forall_mem_cons, OpcodeRow.Selects, and_FFFF]
  refine ⟨?sys, ?cls, ?ret, ?jp, ?call, ?seImm, ?sneImm, ?seReg, List.forall_mem_nil _⟩
  case sys =>
    rintro ⟨bits, notExcepted⟩
    obtain ⟨notCls, notRet⟩ : op ≠ 0x00E0#16 ∧ op ≠ 0x00EE#16 := by simpa using notExcepted
    refine ⟨.sys (opNNN op), ?_, rfl⟩
    rw [decode, opT_of_F000 bits]
    simp [opT, decode0, notCls, notRet]
  case cls =>
    rintro ⟨rfl, -⟩
    exact ⟨.cls, rfl, rfl⟩
  case ret =>
    rintro ⟨rfl, -⟩
    exact ⟨.ret, rfl, rfl⟩
  case seReg =>
    rintro ⟨bits, -⟩
    obtain ⟨hT, hN⟩ := fields_of_F00F bits
    exact ⟨_, by rw [decode, hT, hN]; rfl, by rfl⟩
  all_goals
    rintro ⟨bits, -⟩
    exact ⟨_, by rw [decode, opT_of_F000 bits]; rfl, by rfl⟩

theorem decodesAs_of_selects_alu (op : Word) : ∀ row ∈ opcodeMapAlu, row.Selects op → DecodesAs row.mnemonic op := by
  simp only [opcodeMapAlu, List.forall_mem_cons, OpcodeRow.Selects]
  refine ⟨?ldImm, ?addImm, ?_, ?_, ?_, ?_, ?_, ?_, ?_, ?_, ?_, List.forall_mem_nil _⟩
  case ldImm | addImm =>
    rintro ⟨bits, -⟩
    exact ⟨_, by rw [decode, opT_of_F000 bits]; rfl, by rfl⟩
  all_goals
    rintro ⟨bits, -⟩
    obtain ⟨hT, hN⟩ := fields_of_F00F bits
    exact ⟨_, by rw [decode, hT, decode8, hN]; rfl, by rfl⟩

theorem decodesAs_of_selects_high (op : Word) : ∀ row ∈ opcodeMapHigh, row.Selects op → DecodesAs row.mnemonic op := by
  simp only [opcodeMapHigh, List.forall_mem_cons, OpcodeRow.Selects]
  refine ⟨?sneReg, ?ldI, ?jpV0, ?rnd, ?drw, ?_, ?_, ?_, ?_, ?_, ?_, ?_, ?_, ?_, ?_, ?_, List.forall_mem_nil _⟩
  case sneReg =>
    rintro ⟨bits, -⟩
    obtain ⟨hT, hN⟩ := fields_of_F00F bits
    exact ⟨_, by rw [decode, hT, hN]; rfl, by rfl⟩
  case ldI | jpV0 | rnd | drw =>
    rintro ⟨bits, -⟩
    exact ⟨_, by rw [decode, opT_of_F000 bits]; rfl, by rfl⟩
  all_goals
    rintro ⟨bits, -⟩
    obtain ⟨hT, hNN⟩ := fields_of_F0FF bits
    exact ⟨_, by rw [decode, hT, decodeE, decodeF, hNN]; rfl, by rfl⟩

/-- A word that selects a row is read as an instruction of that row. -/
theorem decodesAs_of_selects {op : Word} {row : OpcodeRow} (mem : row ∈ opcodeMap) (sel : row.Selects op) :
    DecodesAs row.mnemonic op := by
  rcases List.mem_append.1 mem with memLowAlu | memHigh
  · rcases List.mem_append.1 memLowAlu with memLow | memAlu
    · exact decodesAs_of_selects_low op row memLow sel
    · exact decodesAs_of_selects_alu op row memAlu sel
  · exact decodesAs_of_selects_high op row memHigh sel

/-- The map has one row per name. -/
theorem opcodeMap_mnemonic_injective :
    ∀ row ∈ opcodeMap, ∀ other ∈ opcodeMap, row.mnemonic = other.mnemonic → row = other := by
  decide

/-- What a rejection says: the word itself. -/
theorem unassigned_of_decode_error {op : Word} {e : DecodeError} (h : decode op = .error e) : e = .unassigned op := by
  unfold decode decode8 decodeE decodeF at h
  repeat' split at h
  all_goals cases h
  all_goals rfl

/-- Settles O3: the word read back is the instruction's encoding, which selects its row; a rejected word selects none, since
a selected row is read. -/
theorem decoderFollowsTheOpcodeMap : Obligations.DecoderFollowsTheOpcodeMap := by
  intro op
  refine ⟨fun i accepted => ?_, fun e rejected => ⟨unassigned_of_decode_error rejected, fun row mem sel => ?_⟩⟩
  · obtain ⟨wf, word⟩ := encodeOfDecodeIsTheWord op i accepted
    exact word ▸ encode_selects_row i wf
  · obtain ⟨i, accepted, -⟩ := decodesAs_of_selects mem sel
    cases rejected.symm.trans accepted

/-- Settles O4: two selected rows bear the name of the one instruction the word is read as. -/
theorem opcodeRowsDoNotOverlap : Obligations.OpcodeRowsDoNotOverlap := by
  intro op row mem other memOther sel selOther
  obtain ⟨i, accepted, name⟩ := decodesAs_of_selects mem sel
  obtain ⟨j, acceptedOther, nameOther⟩ := decodesAs_of_selects memOther selOther
  have same : i = j := Except.ok.inj (accepted.symm.trans acceptedOther)
  exact opcodeMap_mnemonic_injective row mem other memOther (by rw [← name, ← nameOther, same])

/-! #### The unassigned words, as sets of fields (R78) -/

theorem decode8_rejects_iff (op : Word) :
    (∃ e, decode8 op = .error e) ↔ op.toNat % 16 ∈ [0x8, 0x9, 0xA, 0xB, 0xC, 0xD, 0xF] := by
  rw [← opN_toNat, decode8]
  have bound := (opN op).isLt
  split <;> simp [*] at *
  omega

theorem decodeE_rejects_iff (op : Word) : (∃ e, decodeE op = .error e) ↔ op.toNat % 256 ∉ [0x9E, 0xA1] := by
  rw [← opNN_toNat, decodeE]
  split_ifs <;> simp_all [← BitVec.toNat_inj]

theorem decodeF_rejects_iff (op : Word) :
    (∃ e, decodeF op = .error e) ↔ op.toNat % 256 ∉ [0x07, 0x0A, 0x15, 0x18, 0x1E, 0x29, 0x33, 0x55, 0x65] := by
  rw [← opNN_toNat, decodeF]
  split_ifs <;> simp_all [← BitVec.toNat_inj]

/-- Settles O5: each family rejects its own set, and the families without a set reject nothing. -/
theorem unassignedWordsAreExactlyTheListedSets : Obligations.UnassignedWordsAreExactlyTheListedSets := by
  intro op
  rw [← decode8_rejects_iff, ← decodeE_rejects_iff, ← decodeF_rejects_iff, ← opT_toNat, ← opN_toNat]
  unfold decode
  split
  case h_6 hT | h_10 hT =>
    have lowNibble : opN op = 0#4 ↔ (opN op).toNat = 0 := by rw [← BitVec.toNat_inj, BitVec.toNat_ofNat]
    by_cases hN : (opN op).toNat = 0 <;> simp [hT, lowNibble, hN]
  case h_16 =>
    have family : (opT op).toNat = 0xF := by
      have bound := (opT op).isLt
      simp only [imp_false] at *
      omega
    simp [family]
  all_goals simp [*]

/-- Settles O6: the decoder evaluated on each word. -/
theorem sampleWordsDecode : Obligations.SampleWordsDecode := by
  unfold Obligations.SampleWordsDecode
  decide

end Sys2Proof

/-! ### Proofs: what an instruction does, said once, and the rules over all instructions (spec/10_state.md R36,
spec/60_exceptions.md R170 to R174) -/

namespace Sys2Proof.Machine

/-- PC after a skip on the condition `c`. -/
def State.skipPc (s : State) (c : Bool) : Word := if c then wrap12 (s.pc.toNat + 2) else s.pc

/-- The next state of an instruction that raises no error, without a branch. -/
def State.effect (s : State) : Instr → State
  | .sys _ => s.noteUnknown
  | .cls => s.setFb Framebuffer.clear
  | .ret => (s.setStack (Fin.ofNat 17 (s.sp.val - 1)) s.stack).setPc (s.stack[s.sp.val - 1]?.getD 0#16)
  | .jp nnn => s.setPc (addrWord nnn)
  | .call nnn =>
    (s.setStack (Fin.ofNat 17 (s.sp.val + 1)) (s.stack.setIfInBounds s.sp.val s.pc)).setPc (addrWord nnn)
  | .seImm x nn => s.setPc (s.skipPc (s.reg x == nn))
  | .sneImm x nn => s.setPc (s.skipPc (s.reg x != nn))
  | .seReg x y => s.setPc (s.skipPc (s.reg x == s.reg y))
  | .ldImm x nn => s.setReg x nn
  | .addImm x nn => s.setReg x (s.reg x + nn)
  | .ldReg x y => s.setReg x (s.reg y)
  | .orReg x y => s.setReg x (s.reg x ||| s.reg y)
  | .andReg x y => s.setReg x (s.reg x &&& s.reg y)
  | .xorReg x y => s.setReg x (s.reg x ^^^ s.reg y)
  | .addReg x y => s.setFlagThenReg (carryFlag (s.reg x) (s.reg y)) x (s.reg x + s.reg y)
  | .sub x y => s.setFlagThenReg (noBorrowFlag (s.reg x) (s.reg y)) x (s.reg x - s.reg y)
  | .shr x _ => s.setFlagThenReg (lowBitFlag (s.reg x)) x (s.reg x >>> 1)
  | .subn x y => s.setFlagThenReg (noBorrowFlag (s.reg y) (s.reg x)) x (s.reg y - s.reg x)
  | .shl x _ => s.setFlagThenReg (highBitFlag (s.reg x)) x (s.reg x <<< 1)
  | .sneReg x y => s.setPc (s.skipPc (s.reg x != s.reg y))
  | .ldI nnn => s.setI (addrWord nnn)
  | .jpV0 nnn => s.setPc (wrap12 (nnn.toNat + (s.reg 0#4).toNat))
  | .rnd x nn => (s.setDraws (s.draws + 1)).setReg x (Config.randomByte s.draws &&& nn)
  | .drw x y n =>
    (s.setFb (drawRows (spriteRows s n) (s.reg x).toNat (s.reg y).toNat (s.fb, false)).1).setFlag
      (flagByte (drawRows (spriteRows s n) (s.reg x).toNat (s.reg y).toNat (s.fb, false)).2)
  | .skp x => s.setPc (s.skipPc (s.keyOf x == some true))
  | .sknp x => s.setPc (s.skipPc (s.keyOf x == some false))
  | .ldVxDt x => s.setReg x s.dt
  | .ldVxK x => s.setWait true x
  | .ldDtVx x => s.setDt (s.reg x)
  | .ldStVx x => s.setSt (s.reg x)
  | .addI x => s.setI (wrap12 (s.i.toNat + (s.reg x).toNat))
  | .ldF x => s.setI (glyphAddr (s.reg x))
  | .ldB x => s.setMem (s.mem.copyIn s.i.toNat (bcdDigits (s.reg x)))
  | .ldMemVx x => (s.setMem (s.mem.copyIn s.i.toNat (s.regsUpTo x))).advanceI s.i x
  | .ldVxMem x =>
    (s.setRegs (loadRegs 0 ((List.range (x.toNat + 1)).map fun k => s.mem.read (s.i.toNat + k)) s.v)).advanceI s.i x

/-- The error condition of an instruction that raises no error does not hold. -/
theorem not_of_ite_some_eq_none {c : Prop} [Decidable c] {e : ExecError} (h : (if c then some e else none) = none) :
    ¬ c := fun hc => by
  rw [if_pos hc] at h
  cases h

/-- The stack after a push, whose entry is in bounds. -/
theorem set_eq_setIfInBounds {k : Nat} (v : Vector Word 16) (w : Word) (h : k < 16) :
    v.set k w h = v.setIfInBounds k w := by
  ext j hj
  rw [Vector.getElem_set, Vector.getElem_setIfInBounds]

/-- An instruction whose error condition holds raises the error, and that is its whole next state. -/
theorem exec_of_errorOf_some {i : Instr} {s : State} {e : ExecError} (h : s.errorOf i = some e) :
    exec i s = .next (s.setHalt true e) := by
  cases i
  case call nnn =>
    obtain ⟨full, rfl⟩ := Option.ite_some_none_eq_some.1 h
    exact (execCall_eq nnn s).trans (dif_neg (by simp [full]))
  case ret =>
    obtain ⟨empty, rfl⟩ := Option.ite_some_none_eq_some.1 h
    exact (execRet_eq s).trans (dif_pos empty)
  case ldB x =>
    obtain ⟨outside, rfl⟩ := Option.ite_some_none_eq_some.1 h
    exact (execLdB_eq x s).trans (if_neg (Nat.not_le.2 outside))
  case ldMemVx x =>
    obtain ⟨outside, rfl⟩ := Option.ite_some_none_eq_some.1 h
    exact (execLdMemVx_eq x s).trans (if_neg (Nat.not_le.2 outside))
  case ldVxMem x =>
    obtain ⟨outside, rfl⟩ := Option.ite_some_none_eq_some.1 h
    exact (execLdVxMem_eq x s).trans (if_neg (Nat.not_le.2 outside))
  case drw x y n =>
    obtain ⟨⟨tall, outside⟩, rfl⟩ := Option.ite_some_none_eq_some.1 h
    exact (execDrw_eq x y n s).trans (if_neg (by simp only [Config.maxAddr]; omega))
  all_goals cases h

/-- An instruction whose error condition does not hold answers its effect. -/
theorem exec_of_errorOf_none {i : Instr} {s : State} (h : s.errorOf i = none) : exec i s = .next (s.effect i) := by
  cases i
  case call nnn =>
    have room : s.sp.val < 16 := by
      have := not_of_ite_some_eq_none h
      omega
    have depth : Fin.succ (⟨s.sp.val, room⟩ : Fin 16) = Fin.ofNat 17 (s.sp.val + 1) :=
      Fin.ext (by simp only [Fin.val_succ, Fin.val_ofNat]; omega)
    refine (execCall_eq nnn s).trans ((dif_pos room).trans ?_)
    rw [depth, set_eq_setIfInBounds]
    rfl
  case ret =>
    have live : s.sp.val ≠ 0 := not_of_ite_some_eq_none h
    have entry : s.sp.val - 1 < 16 := by omega
    have depth : Fin.castSucc (⟨s.sp.val - 1, entry⟩ : Fin 16) = Fin.ofNat 17 (s.sp.val - 1) :=
      Fin.ext (by simp only [Fin.val_castSucc, Fin.val_ofNat]; omega)
    refine (execRet_eq s).trans ((dif_neg live).trans ?_)
    rw [depth, State.effect, Vector.getElem?_eq_getElem entry, Option.getD_some]
  case ldB x => exact (execLdB_eq x s).trans (if_pos (Nat.not_lt.1 (not_of_ite_some_eq_none h)))
  case ldMemVx x => exact (execLdMemVx_eq x s).trans (if_pos (Nat.not_lt.1 (not_of_ite_some_eq_none h)))
  case ldVxMem x => exact (execLdVxMem_eq x s).trans (if_pos (Nat.not_lt.1 (not_of_ite_some_eq_none h)))
  case drw x y n =>
    have inside := not_of_ite_some_eq_none h
    exact (execDrw_eq x y n s).trans (if_pos (by simp only [Config.maxAddr]; omega))
  case seImm | sneImm | seReg | sneReg | skp | sknp => exact congrArg _ (s.skipIf_eq _)
  all_goals rfl

theorem exec_next_cases {i : Instr} {s t : State} (h : exec i s = .next t) :
    (∃ e, s.errorOf i = some e ∧ t = s.setHalt true e) ∨ (s.errorOf i = none ∧ t = s.effect i) := by
  cases he : s.errorOf i with
  | some e =>
    rw [exec_of_errorOf_some he] at h
    exact .inl ⟨e, rfl, (Host.Outcome.next.inj h).symm⟩
  | none =>
    rw [exec_of_errorOf_none he] at h
    exact .inr ⟨rfl, (Host.Outcome.next.inj h).symm⟩

/-- Every instruction answers a next state: a raise is one, too. -/
theorem exec_answers (i : Instr) (s : State) : ∃ t, exec i s = .next t := by
  cases h : s.errorOf i with
  | some e => exact ⟨_, exec_of_errorOf_some h⟩
  | none => exact ⟨_, exec_of_errorOf_none h⟩

/-! #### Registers after the two writes of more than one register -/

/-- The result of an arithmetic instruction wins over its flag (R133, D13). -/
theorem State.reg_setFlagThenReg_result (s : State) (f b : Byte) (x : Nibble) : (s.setFlagThenReg f x b).reg x = b :=
  State.reg_setReg_same _ x b

theorem State.reg_setFlagThenReg_flag (s : State) (f b : Byte) {x : Nibble} (h : x ≠ vf) :
    (s.setFlagThenReg f x b).reg vf = f :=
  (State.reg_setReg_ne _ x vf b h.symm).trans (State.reg_setReg_same s vf f)

theorem State.reg_setFlagThenReg_other (s : State) (f b : Byte) {x r : Nibble} (hx : r ≠ x) (hf : r ≠ vf) :
    (s.setFlagThenReg f x b).reg r = s.reg r :=
  (State.reg_setReg_ne _ x r b hx).trans (State.reg_setReg_ne s vf r f hf)

/-- V0 to VX are loaded from I on, and the registers above VX are kept (R145). -/
theorem State.reg_effect_ldVxMem (s : State) (x r : Nibble) :
    (s.effect (.ldVxMem x)).reg r = if r.toNat ≤ x.toNat then s.mem.read (s.i.toNat + r.toNat) else s.reg r := by
  show (loadRegs 0 _ s.v)[r.toNat]'r.isLt = _
  rw [loadRegs_getElem, List.length_map, List.length_range]
  by_cases h : r.toNat ≤ x.toNat
  · have covered : r.toNat < x.toNat + 1 := by omega
    simp [h, covered]
  · rw [if_neg h, if_neg (by omega)]
    rfl

/-! #### What an effect leaves unchanged, column by column of the access matrix (R36) -/

section Columns

variable {i : Instr} (s : State)

theorem State.effect_reg {r : Nibble} (h : ¬ writesReg r i) : (s.effect i).reg r = s.reg r := by
  cases i with
  | ldImm | addImm | ldReg | orReg | andReg | xorReg | rnd | ldVxDt => exact State.reg_setReg_ne _ _ _ _ h
  | addReg | sub | shr | subn | shl =>
    obtain ⟨notResult, notFlag⟩ := not_or.1 h
    exact s.reg_setFlagThenReg_other _ _ notResult notFlag
  | drw => exact State.reg_setReg_ne _ _ _ _ h
  | ldVxMem x => exact (s.reg_effect_ldVxMem x r).trans (if_neg h)
  | _ => rfl

theorem State.effect_i (h : ¬ writesI i) : (s.effect i).i = s.i := by
  cases i with
  | ldI | addI | ldF | ldMemVx | ldVxMem => exact absurd trivial h
  | _ => rfl

theorem State.effect_pc (h : ¬ writesPc i) : (s.effect i).pc = s.pc := by
  cases i with
  | ret | jp | call | seImm | sneImm | seReg | sneReg | jpV0 | skp | sknp => exact absurd trivial h
  | _ => rfl

theorem State.effect_stack (h : ¬ writesStack i) : SameStack s (s.effect i) := by
  cases i with
  | ret | call => exact absurd trivial h
  | _ => exact ⟨rfl, fun _ => rfl⟩

theorem State.effect_mem (h : ¬ writesMem i) : (s.effect i).mem = s.mem := by
  cases i with
  | ldB | ldMemVx => exact absurd trivial h
  | _ => rfl

theorem State.effect_fb (h : ¬ writesFb i) : (s.effect i).fb = s.fb := by
  cases i with
  | cls | drw => exact absurd trivial h
  | _ => rfl

theorem State.effect_dt (h : ∀ x, i ≠ .ldDtVx x) : (s.effect i).dt = s.dt := by
  cases i with
  | ldDtVx x => exact absurd rfl (h x)
  | _ => rfl

theorem State.effect_st (h : ∀ x, i ≠ .ldStVx x) : (s.effect i).st = s.st := by
  cases i with
  | ldStVx x => exact absurd rfl (h x)
  | _ => rfl

theorem State.effect_wait (h : ∀ x, i ≠ .ldVxK x) : (s.effect i).wait = s.wait ∧ (s.effect i).waitReg = s.waitReg := by
  cases i with
  | ldVxK x => exact absurd rfl (h x)
  | _ => exact ⟨rfl, rfl⟩

theorem State.effect_diag (h : ∀ nnn, i ≠ .sys nnn) : (s.effect i).diag = s.diag := by
  cases i with
  | sys nnn => exact absurd rfl (h nnn)
  | _ => rfl

theorem State.effect_draws (h : ∀ x nn, i ≠ .rnd x nn) : (s.effect i).draws = s.draws := by
  cases i with
  | rnd x nn => exact absurd rfl (h x nn)
  | _ => rfl

theorem State.effect_key : (s.effect i).key = s.key := by cases i <;> rfl

theorem State.effect_halt : (s.effect i).halt = s.halt := by cases i <;> rfl

theorem State.effect_err : (s.effect i).err = s.err := by cases i <;> rfl

end Columns

/-- A raise changes HALT and ERR only (R174). -/
theorem State.setHalt_raisedIn (s : State) (e : ExecError) : RaisedIn e s (s.setHalt true e) := by
  have regs : SameRegsBut [] s (s.setHalt true e) := fun r _ => s.setHalt_reg true e r
  exact ⟨rfl, rfl, rfl, rfl, rfl, regs, rfl, rfl, fun _ _ => rfl, fun _ _ => rfl, ⟨rfl, fun _ => rfl⟩, ⟨rfl, rfl⟩,
    fun _ => rfl, rfl⟩

/-- Settles O18: an instruction raises where its error condition holds, and its effect never writes HALT or ERR. -/
theorem errorsAreRaisedExactlyWhenListed : Obligations.ErrorsAreRaisedExactlyWhenListed := by
  intro i s
  constructor
  · intro e raised
    exact ⟨_, exec_of_errorOf_some raised, s.setHalt_raisedIn e⟩
  · intro fine
    exact ⟨_, exec_of_errorOf_none fine, s.effect_halt, s.effect_err⟩

/-- Settles O19: a raise writes no column of the matrix, and an effect keeps every column that its row leaves out. -/
theorem instructionsWriteOnlyWhatTheAccessMatrixAllows : Obligations.InstructionsWriteOnlyWhatTheAccessMatrixAllows := by
  intro i s t h
  rcases exec_next_cases h with ⟨e, -, rfl⟩ | ⟨-, rfl⟩
  case inl =>
    exact ⟨fun _ _ => rfl, fun _ => rfl, fun _ => rfl, fun _ => ⟨rfl, fun _ => rfl⟩, fun _ _ _ => rfl, fun _ _ _ => rfl,
      fun _ => rfl, fun _ => rfl, fun _ => rfl, fun _ => ⟨rfl, rfl⟩, fun _ => rfl, fun _ => rfl⟩
  case inr =>
    have bytes : ¬ writesMem i → SameBytes s (s.effect i) := fun hw a _ => by rw [s.effect_mem hw]
    have cells : ¬ writesFb i → SameCells s (s.effect i) := fun hw x y => by rw [s.effect_fb hw]
    have keys : SameKeys s (s.effect i) := fun k => by rw [s.effect_key]
    exact ⟨fun _ => s.effect_reg, s.effect_i, s.effect_pc, s.effect_stack, bytes, cells, s.effect_dt, s.effect_st, keys,
      s.effect_wait, s.effect_diag, s.effect_draws⟩

/-! #### What no instruction reads -/

/-- An update `f` of the state that no error condition reads, and that an instruction's effect neither reads nor undoes,
changes nothing of what the instruction does. -/
theorem exec_commutes {i : Instr} {s t : State} (f : State → State) (h : exec i s = .next t)
    (sameRaise : ∀ e, (f s).setHalt true e = f (s.setHalt true e)) (sameError : (f s).errorOf i = s.errorOf i)
    (sameEffect : (f s).effect i = f (s.effect i)) : exec i (f s) = .next (f t) := by
  rcases exec_next_cases h with ⟨e, raised, rfl⟩ | ⟨fine, rfl⟩
  · exact (exec_of_errorOf_some (sameError.trans raised)).trans (congrArg _ (sameRaise e))
  · exact (exec_of_errorOf_none (sameError.trans fine)).trans (congrArg _ sameEffect)

/-- Settles O20: no error condition reads the keys, and of the effects only the two key skips' do. -/
theorem keysAreReadOnlyByTheKeySkips : Obligations.KeysAreReadOnlyByTheKeySkips := by
  intro i s t key notSkip h
  refine exec_commutes (fun u => { u with key := key }) h (fun _ => rfl) (by cases i <;> rfl) ?_
  cases i with
  | skp x => exact absurd rfl (notSkip x).1
  | sknp x => exact absurd rfl (notSkip x).2
  | _ => rfl

/-- Settles O22: no error condition and no effect reads ST, and FX18 overwrites it. -/
theorem soundTimerIsReadByNoInstruction : Obligations.SoundTimerIsReadByNoInstruction := by
  intro i s t b h
  constructor
  · intro notLdSt
    refine exec_commutes (fun u => { u with st := b }) h (fun _ => rfl) (by cases i <;> rfl) ?_
    cases i with
    | ldStVx x => exact absurd rfl (notLdSt x)
    | _ => rfl
  · rintro ⟨x, rfl⟩
    obtain rfl := Host.Outcome.next.inj h
    rfl

end Sys2Proof.Machine

/-! ### Proofs: the Step transaction (spec/40_step_cycle.md R90 to R95, spec/20_memory.md R53) -/

namespace Sys2Proof.Machine

/-- The word at PC, its second byte at `(PC + 1) mod 4096` (R53). -/
abbrev State.opcode (s : State) : Word :=
  wordOfBytes (s.mem.read s.pc.toNat) (s.mem.read ((s.pc.toNat + 1) % 4096))

/-- Settles O7: where PC is in range both reads are in bounds, and the word is their concatenation. -/
theorem fetchIsBigEndianAndWraps : Obligations.FetchIsBigEndianAndWraps := by
  intro s inRange
  exact ⟨_, _, s.fetchWord_eq inRange, rfl, rfl, wordOfBytes_toNat _ _⟩

/-! #### What a Step does, case by case -/

theorem step_of_halt {s : State} (h : s.halt = true) : step s = .next s := if_pos h

theorem step_of_wait {s : State} (h : s.wait = true) : step s = .next s := by
  rw [step, stepTransaction, if_pos h, ite_self]

theorem State.not_running {s : State} (h : ¬ s.Running) : s.halt = true ∨ s.wait = true := by
  cases hh : s.halt
  · exact .inr (by simpa [hh] using h)
  · exact .inl rfl

theorem step_of_not_running {s : State} (h : ¬ s.Running) : step s = .next s :=
  (State.not_running h).elim step_of_halt step_of_wait

theorem step_of_running {s : State} (running : s.Running) (inRange : s.pc.toNat ≤ 0xFFF) :
    step s = runFetched (s.mem.read s.pc.toNat) (s.mem.read ((s.pc.toNat + 1) % 4096)) s.advancePc := by
  obtain ⟨notHalted, notWaiting⟩ := running
  simp [step, stepTransaction, notHalted, notWaiting, s.fetchWord_eq inRange]

/-- A Step that is neither halted nor waiting executes the instruction at PC in the advanced state. -/
theorem step_of_decode_ok {s : State} {i : Instr} (running : s.Running) (inRange : s.pc.toNat ≤ 0xFFF)
    (read : decode s.opcode = .ok i) : step s = exec i s.advancePc := by
  rw [step_of_running running inRange, runFetched, decodeBytes_pair, read]
  rfl

/-- A Step on a word that is no instruction sets DIAG in the advanced state (R95). -/
theorem step_of_decode_error {s : State} {e : DecodeError} (running : s.Running) (inRange : s.pc.toNat ≤ 0xFFF)
    (rejected : decode s.opcode = .error e) : step s = .next s.advancePc.noteUnknown := by
  rw [step_of_running running inRange, runFetched, decodeBytes_pair, rejected]
  rfl

/-- A PC above 0xFFF is a fault. -/
theorem step_of_pc_outside {s : State} (running : s.Running) (outside : ¬ s.pc.toNat ≤ 0xFFF) :
    step s = .fault .fetchOutsideMemory := by
  obtain ⟨notHalted, notWaiting⟩ := running
  simp [step, stepTransaction, notHalted, notWaiting, State.fetchWord, State.memRead, outside]

/-- All that a Step with a next state can have done: nothing, an instruction, or the no-op of R95. -/
inductive StepCase (s t : State) : Prop
  | idle (stopped : ¬ s.Running) (same : t = s)
  | instruction (running : s.Running) (inRange : s.pc.toNat ≤ 0xFFF) (i : Instr) (read : decode s.opcode = .ok i)
      (executed : exec i s.advancePc = .next t)
  | unknown (running : s.Running) (inRange : s.pc.toNat ≤ 0xFFF) (e : DecodeError)
      (rejected : decode s.opcode = .error e) (noted : t = s.advancePc.noteUnknown)

theorem step_next_cases {s t : State} (h : step s = .next t) : StepCase s t := by
  by_cases running : s.Running
  case neg => exact .idle running (Host.Outcome.next.inj ((step_of_not_running running).symm.trans h)).symm
  by_cases inRange : s.pc.toNat ≤ 0xFFF
  case neg => cases (step_of_pc_outside running inRange).symm.trans h
  cases read : decode s.opcode with
  | ok i => exact .instruction running inRange i read ((step_of_decode_ok running inRange read).symm.trans h)
  | error e =>
    have noted := Host.Outcome.next.inj ((step_of_decode_error running inRange read).symm.trans h)
    exact .unknown running inRange e read noted.symm

/-- Settles O8: the Step's own case of a decoded word. -/
theorem stepRunsTheDecodedInstruction : Obligations.StepRunsTheDecodedInstruction :=
  fun _ _ running inRange read => step_of_decode_ok running inRange read

/-- Settles O9: the no-op of R95 and SYS both set DIAG in the advanced state. -/
theorem stepOnAnUnknownWordOnlySetsDiag : Obligations.StepOnAnUnknownWordOnlySetsDiag := by
  rintro s running inRange (⟨e, rejected⟩ | ⟨nnn, read⟩)
  · exact step_of_decode_error running inRange rejected
  · exact step_of_decode_ok running inRange read

/-- What the transaction Step answers, read off the state it leaves. -/
theorem transactLive_step_of_next {s t : State} (h : step s = .next t) :
    transactLive .step s = .next (t.stepReply, t) := by
  rw [transactLive, h]

theorem State.stepReply_of_halt {s : State} (h : s.halt = true) : s.stepReply = .stepErr s.err := if_pos h

theorem State.stepReply_of_not_halt {s : State} (h : s.halt = false) : s.stepReply = .stepOk := by
  rw [State.stepReply, h, if_neg Bool.false_ne_true]

/-- Settles O10: both gates leave the state, and the reply follows HALT, which is tested first. -/
theorem stepIsIdleWhileHaltedOrWaiting : Obligations.StepIsIdleWhileHaltedOrWaiting := by
  intro s
  constructor
  · intro halted
    exact ⟨step_of_halt halted, State.stepReply_of_halt halted ▸ transactLive_step_of_next (step_of_halt halted)⟩
  · intro notHalted waiting
    exact ⟨step_of_wait waiting,
      State.stepReply_of_not_halt notHalted ▸ transactLive_step_of_next (step_of_wait waiting)⟩

/-- Settles O11: only a raise in the advanced state sets HALT. -/
theorem failedStepChangesOnlyPcHaltAndErr : Obligations.FailedStepChangesOnlyPcHaltAndErr := by
  intro s t running h failed
  refine ⟨?_, State.stepReply_of_halt failed ▸ transactLive_step_of_next h⟩
  have notHalted : s.halt = false := running.1
  cases step_next_cases h with
  | idle stopped => exact absurd running stopped
  | instruction _ _ i _ executed =>
    rcases exec_next_cases executed with ⟨e, -, rfl⟩ | ⟨-, rfl⟩
    · rfl
    · cases (notHalted.symm.trans (State.effect_halt (i := i) s.advancePc).symm).trans failed
  | unknown _ _ _ _ noted =>
    subst noted
    cases notHalted.symm.trans failed

/-- Settles O12: PC in range rules out the one fault, and no instruction faults or is refused. -/
theorem stepAlwaysAnswersANextState : Obligations.StepAlwaysAnswersANextState := by
  intro s inv
  by_cases running : s.Running
  case neg => exact ⟨s, step_of_not_running running⟩
  cases read : decode s.opcode with
  | ok i =>
    obtain ⟨t, executed⟩ := exec_answers i s.advancePc
    exact ⟨t, (step_of_decode_ok running inv.pc_le read).trans executed⟩
  | error e => exact ⟨_, step_of_decode_error running inv.pc_le read⟩

/-- Settles O21: no gate, fetch, error condition or effect reads DIAG; SYS and the unassigned words overwrite it. -/
theorem diagInfluencesNothing : Obligations.DiagInfluencesNothing := by
  intro s t d h
  cases step_next_cases h with
  | idle stopped same => exact ⟨d, same ▸ step_of_not_running (s := { s with diag := d }) stopped⟩
  | unknown running inRange e rejected noted =>
    exact ⟨true, noted ▸ step_of_decode_error (s := { s with diag := d }) running inRange rejected⟩
  | instruction running inRange i read executed =>
    have advanced := step_of_decode_ok (s := { s with diag := d }) running inRange read
    by_cases isSys : ∃ nnn, i = .sys nnn
    · obtain ⟨nnn, rfl⟩ := isSys
      obtain rfl := Host.Outcome.next.inj executed
      exact ⟨true, advanced⟩
    · refine ⟨d, advanced.trans ?_⟩
      refine exec_commutes (fun u => { u with diag := d }) executed (fun _ => rfl) (by cases i <;> rfl) ?_
      cases i with
      | sys nnn => exact absurd ⟨nnn, rfl⟩ isSys
      | _ => rfl

/-- A word is put together again from its two bytes (R55). -/
theorem wordOfBytes_split (w : Word) : wordOfBytes (w.extractLsb' 8 8) (w.extractLsb' 0 8) = w := by
  apply BitVec.eq_of_toNat_eq
  have := w.isLt
  simp only [wordOfBytes_toNat, BitVec.extractLsb'_toNat, Nat.shiftRight_eq_div_pow]
  omega

/-- Settles O31: the jump writes back the PC it was fetched from. -/
theorem jumpToSelfLeavesTheStateUnchanged : Obligations.JumpToSelfLeavesTheStateUnchanged := by
  rintro s ⟨running, nnn, toSelf, fetched⟩
  have inRange : s.pc.toNat ≤ 0xFFF := toSelf ▸ addrWord_le nnn
  obtain ⟨high, low⟩ := Prod.mk.inj (Except.ok.inj ((s.fetchWord_eq inRange).symm.trans fetched))
  have word : s.opcode = encode (.jp nnn) := (congrArg₂ wordOfBytes high low).trans (wordOfBytes_split _)
  have read : decode s.opcode = .ok (.jp nnn) := word ▸ decodeOfEncodeIsTheInstruction (.jp nnn) trivial
  rw [step_of_decode_ok running inRange read, exec_jp_eq, toSelf]
  rfl

end Sys2Proof.Machine

/-! ### Proofs: the invariant, kept by every instruction, Step, transaction and run (spec/10_state.md R22 to R24,
spec/20_memory.md R50, spec/60_exceptions.md R176) -/

namespace Sys2Proof.Machine

/-- Settles O14: every bounded field is a constant, and memory lists nothing. -/
theorem resetStateMeetsTheInvariant : Obligations.ResetStateMeetsTheInvariant where
  i_le := by decide
  pc_le := by decide
  stack_le := by decide
  mem_wf := State.reset_mem_wf
  mem_inRange := by simp [State.reset]
  not_both := by decide

/-! #### The invariant under one update -/

section Updates

variable {s t : State}

/-- The invariant speaks of six fields only. -/
theorem State.Inv.congr (inv : s.Inv) (i : t.i = s.i) (pc : t.pc = s.pc) (stack : t.stack = s.stack) (mem : t.mem = s.mem)
    (halt : t.halt = s.halt) (wait : t.wait = s.wait) : t.Inv where
  i_le := i ▸ inv.i_le
  pc_le := pc ▸ inv.pc_le
  stack_le := stack ▸ inv.stack_le
  mem_wf := mem ▸ inv.mem_wf
  mem_inRange := mem ▸ inv.mem_inRange
  not_both := halt ▸ wait ▸ inv.not_both

theorem State.Inv.setI (inv : s.Inv) {w : Word} (bound : w.toNat ≤ Config.maxAddr) : (s.setI w).Inv :=
  { inv with i_le := bound }

theorem State.Inv.setPc (inv : s.Inv) {w : Word} (bound : w.toNat ≤ Config.maxAddr) : (s.setPc w).Inv :=
  { inv with pc_le := bound }

theorem State.Inv.setStack (inv : s.Inv) {n : Fin 17} {v : Vector Word 16}
    (bound : ∀ k : Fin 16, (v[k.val]).toNat ≤ Config.maxAddr) : (s.setStack n v).Inv :=
  { inv with stack_le := bound }

/-- Storing a block of bytes that fits below 0x1000. -/
theorem State.Inv.setMem_copyIn (inv : s.Inv) {a : Nat} {bs : List Byte} (fits : a + bs.length ≤ Config.memSize) :
    (s.setMem (s.mem.copyIn a bs)).Inv :=
  { inv with
    mem_wf := Memory.wf_copyIn bs s.mem a inv.mem_wf
    mem_inRange := Memory.inRange_copyIn bs s.mem a inv.mem_inRange fits }

/-- A raise while no key is awaited. -/
theorem State.Inv.setHalt (inv : s.Inv) (notWaiting : s.wait = false) (e : ExecError) : (s.setHalt true e).Inv :=
  { inv with not_both := fun both => by cases notWaiting.symm.trans both.2 }

/-- The start of a key wait while not halted. -/
theorem State.Inv.setWait (inv : s.Inv) (notHalted : s.halt = false) (x : Nibble) : (s.setWait true x).Inv :=
  { inv with not_both := fun both => by cases notHalted.symm.trans both.1 }

theorem State.Inv.advancePc (inv : s.Inv) : s.advancePc.Inv := inv.setPc (wrap12_le _)

theorem State.Inv.skipPc_le (inv : s.Inv) (c : Bool) : (s.skipPc c).toNat ≤ Config.maxAddr := by
  unfold State.skipPc
  split
  · exact wrap12_le _
  · exact inv.pc_le

/-- A push keeps the bound on the stack entries. -/
theorem State.Inv.push_le (inv : s.Inv) (n : Nat) (k : Fin 16) :
    ((s.stack.setIfInBounds n s.pc)[k.val]).toNat ≤ Config.maxAddr := by
  rw [Vector.getElem_setIfInBounds]
  split
  · exact inv.pc_le
  · exact inv.stack_le k

theorem State.Inv.entry_le (inv : s.Inv) (n : Nat) : (s.stack[n]?.getD 0#16).toNat ≤ Config.maxAddr := by
  by_cases h : n < 16
  · rw [Vector.getElem?_eq_getElem h, Option.getD_some]
    exact inv.stack_le ⟨n, h⟩
  · rw [Vector.getElem?_eq_none (Nat.not_lt.1 h), Option.getD_none]
    decide

end Updates

theorem glyphAddr_le (b : Byte) : (glyphAddr b).toNat ≤ Config.maxAddr := by
  have := b.isLt
  rw [glyphAddr_toNat]
  simp only [Config.maxAddr]
  omega

/-! #### The invariant under an instruction, a Step, a transaction and a run -/

/-- The effect of an instruction that raises no error, in a state that is not halted. -/
theorem State.Inv.effect {i : Instr} {s : State} (inv : s.Inv) (notHalted : s.halt = false) (fine : s.errorOf i = none) :
    (s.effect i).Inv := by
  cases i with
  | jp nnn => exact inv.setPc (addrWord_le nnn)
  | jpV0 => exact inv.setPc (wrap12_le _)
  | seImm | sneImm | seReg | sneReg | skp | sknp => exact inv.setPc (inv.skipPc_le _)
  | call nnn => exact (inv.setStack (inv.push_le _)).setPc (addrWord_le nnn)
  | ret => exact (inv.setStack inv.stack_le).setPc (inv.entry_le _)
  | ldI nnn => exact inv.setI (addrWord_le nnn)
  | addI => exact inv.setI (wrap12_le _)
  | ldF => exact inv.setI (glyphAddr_le _)
  | ldB x =>
    have inside := not_of_ite_some_eq_none fine
    exact inv.setMem_copyIn (by simp only [bcdDigits, List.length_cons, List.length_nil, Config.memSize]; omega)
  | ldMemVx x =>
    have inside := not_of_ite_some_eq_none fine
    have fits : s.i.toNat + (s.regsUpTo x).length ≤ Config.memSize := by
      rw [s.regsUpTo_length x]
      simp only [Config.memSize]
      omega
    exact (inv.setMem_copyIn fits).setI (wrap12_le _)
  | ldVxMem =>
    have loaded : ∀ v, (s.setRegs v).Inv := fun _ => inv.congr rfl rfl rfl rfl rfl rfl
    exact (loaded _).setI (wrap12_le _)
  | ldVxK x => exact inv.setWait notHalted x
  | _ => exact inv.congr rfl rfl rfl rfl rfl rfl

theorem State.Inv.exec {i : Instr} {s t : State} (inv : s.Inv) (running : s.Running) (h : exec i s = .next t) : t.Inv := by
  obtain ⟨notHalted, notWaiting⟩ := running
  rcases exec_next_cases h with ⟨e, -, rfl⟩ | ⟨fine, rfl⟩
  · exact inv.setHalt notWaiting e
  · exact inv.effect notHalted fine

/-- Settles O13: the advance of PC keeps the invariant, and so does whatever the Step then executes. -/
theorem everyStepKeepsTheInvariant : Obligations.EveryStepKeepsTheInvariant := by
  intro s t inv h
  cases step_next_cases h with
  | idle _ same => exact same ▸ inv
  | instruction running _ i _ executed => exact inv.advancePc.exec running executed
  | unknown _ _ _ _ noted => exact noted ▸ inv.advancePc.congr rfl rfl rfl rfl rfl rfl

theorem State.Inv.resetFrom (s : State) : s.resetFrom.Inv :=
  resetStateMeetsTheInvariant.congr rfl rfl rfl rfl rfl rfl

/-- The end of a key wait keeps HALT and WAIT from being 1 together. -/
theorem State.Inv.resolveWait {s : State} (inv : s.Inv) (k : Nat) : (s.resolveWait k).Inv := by
  unfold State.resolveWait
  split
  · exact { inv with not_both := fun both => Bool.false_ne_true both.2 }
  · exact inv

theorem State.Inv.setKey {s : State} (inv : s.Inv) (k : Nat) (p : Bool) : (s.setKey k p).Inv := by
  have slot : ∀ key, (s.setKeys key).Inv := fun _ => inv.congr rfl rfl rfl rfl rfl rfl
  unfold State.setKey
  split_ifs
  · exact (slot _).resolveWait k
  · exact slot _
  · exact inv

/-- A program of at most 3584 bytes fits from 0x200 up. -/
theorem State.Inv.loadProgram {s : State} (inv : s.Inv) {bytes : List Byte} (short : bytes.length ≤ 3584) :
    (s.setMem (s.mem.copyIn Config.entry bytes)).Inv :=
  inv.setMem_copyIn (by simp only [Config.entry, Config.memSize]; omega)

theorem transactLive_loadProgram_short (s : State) {bytes : List Byte} (h : bytes.length ≤ 3584) :
    transactLive (.loadProgram bytes) s = .next (.loadOk, s.setMem (s.mem.copyIn Config.entry bytes)) := by
  rw [transactLive, State.loadProgram, if_neg (Nat.not_lt.2 h)]

theorem transactLive_loadProgram_long (s : State) {bytes : List Byte} (h : bytes.length > 3584) :
    transactLive (.loadProgram bytes) s = .next (.loadErr .romTooLarge, s) := by
  rw [transactLive, State.loadProgram, if_pos h]

/-- Settles O15: each transaction answers, and what it writes keeps the invariant. -/
theorem everyTransactionAnswersAndKeepsTheInvariant : Obligations.EveryTransactionAnswersAndKeepsTheInvariant := by
  intro t s inv
  cases t with
  | reset => exact ⟨_, _, rfl, State.Inv.resetFrom s⟩
  | loadProgram bytes =>
    by_cases short : bytes.length ≤ 3584
    · exact ⟨_, _, transactLive_loadProgram_short s short, inv.loadProgram short⟩
    · exact ⟨_, _, transactLive_loadProgram_long s (Nat.not_le.1 short), inv⟩
  | step =>
    obtain ⟨t, h⟩ := stepAlwaysAnswersANextState s inv
    exact ⟨_, _, transactLive_step_of_next h, everyStepKeepsTheInvariant s t inv h⟩
  | tickTimers => exact ⟨_, _, rfl, inv.congr rfl rfl rfl rfl rfl rfl⟩
  | setKey k p => exact ⟨_, _, rfl, inv.setKey k p⟩
  | readFramebuffer | readProgramCounter | readSoundTimerActive => exact ⟨_, _, rfl, inv⟩

/-- Settles O16, by induction on the list of transactions. -/
theorem everyRunOfTransactionsKeepsTheInvariant : Obligations.EveryRunOfTransactionsKeepsTheInvariant := by
  intro ts
  induction ts with
  | nil => exact fun s inv => ⟨s, rfl, inv⟩
  | cons t ts ih =>
    intro s inv
    obtain ⟨reply, s', answered, inv'⟩ := everyTransactionAnswersAndKeepsTheInvariant t s inv
    obtain ⟨final, ran, invFinal⟩ := ih s' inv'
    refine ⟨final, ?_, invFinal⟩
    rw [runTransactions, answered]
    exact ran

end Sys2Proof.Machine

/-! ### Proofs: the host's transactions (spec/60_exceptions.md R175, R181 to R184, spec/70_reset_and_hazards.md) -/

namespace Sys2Proof.Machine

/-! #### SetKey (R181), case by case -/

/-- A key's number fits the register that receives it. -/
theorem keyByte_toNat {k : Nat} (h : k < 16) : (BitVec.ofNat 8 k).toNat = k := by
  rw [BitVec.toNat_ofNat]
  omega

section SetKey

variable (s : State) {k : Nat}

theorem State.setKey_above (h : k > 15) (p : Bool) : s.setKey k p = s :=
  dif_neg (by omega)

theorem State.setKey_release (h : k < 16) : s.setKey k false = s.setKeys (s.key.set k false h) :=
  dif_pos h

theorem State.setKey_press_idle (h : k < 16) (notWaiting : s.wait = false) :
    s.setKey k true = s.setKeys (s.key.set k true h) := by
  have noWait : ¬ (s.setKeys (s.key.set k true h)).wait = true := by simp [notWaiting]
  exact (dif_pos h).trans (if_neg noWait)

theorem State.setKey_press_waiting (h : k < 16) (waiting : s.wait = true) :
    s.setKey k true =
      ((s.setKeys (s.key.set k true h)).setReg s.waitReg (BitVec.ofNat 8 k)).setWait false s.waitReg :=
  (dif_pos h).trans (if_pos waiting)

/-- SetKey on a slot that exists writes it, and ends no wait on a release or when none is pending. -/
theorem State.setKey_noWait (h : k < 16) {p : Bool} (idle : p = false ∨ s.wait = false) :
    s.setKey k p = s.setKeys (s.key.set k p h) := by
  cases p with
  | false => exact s.setKey_release h
  | true => exact s.setKey_press_idle h (by simpa using idle)

/-- SetKey writes registers, key slots and WAIT, nothing else. -/
theorem State.setKey_frame (k : Nat) (p : Bool) :
    s.setKey k p = { s with v := (s.setKey k p).v, key := (s.setKey k p).key, wait := (s.setKey k p).wait } := by
  unfold State.setKey State.resolveWait
  split_ifs <;> rfl

theorem State.setKey_key (k : Nat) (p : Bool) (j : Fin 16) :
    (s.setKey k p).key[j.val] = if j.val = k then p else s.key[j.val] := by
  by_cases h : k < 16
  · have slot : (s.setKey k p).key = s.key.set k p h := by
      unfold State.setKey State.resolveWait
      split_ifs <;> rfl
    simp only [slot, Vector.getElem_set, eq_comm]
  · have otherSlot : j.val ≠ k := by omega
    rw [if_neg otherSlot]
    simp only [s.setKey_above (Nat.not_lt.1 h) p]

end SetKey

/-- Settles O55: the slot is written in every case, and the press that ends a wait writes WAITREG's register and
WAIT as well. -/
theorem setKeyWritesTheSlotAndResolvesAWait : Obligations.SetKeyWritesTheSlotAndResolvesAWait := by
  intro s k p
  refine ⟨s.setKey k p, rfl, fun h => s.setKey_above h p, s.setKey_key k p, ?press, ?quiet, ?frame⟩
  case press =>
    rintro h rfl waiting
    have inRange : k < 16 := Nat.lt_succ_of_le h
    rw [s.setKey_press_waiting inRange waiting]
    refine ⟨rfl, ?_, fun r hr => ?_⟩
    · rw [State.setWait_reg, State.reg_setReg_same, keyByte_toNat inRange]
    · rw [State.setWait_reg, State.reg_setReg_ne _ _ _ _ (List.ne_of_not_mem_cons hr), State.setKeys_reg]
  case quiet =>
    intro idle
    by_cases h : k < 16
    · rw [s.setKey_noWait h idle]
      exact ⟨rfl, fun _ _ => rfl⟩
    · rw [s.setKey_above (Nat.not_lt.1 h) p]
      exact ⟨rfl, fun _ _ => rfl⟩
  case frame =>
    rw [s.setKey_frame k p]
    exact ⟨rfl, rfl, rfl, rfl, rfl, rfl, rfl, fun _ _ => rfl, fun _ _ => rfl, ⟨rfl, fun _ => rfl⟩, rfl, rfl⟩

/-- Settles O17: Step is idle while halted, and no other transaction but Reset writes HALT, ERR or PC. -/
theorem onlyResetLeavesTheHaltedState : Obligations.OnlyResetLeavesTheHaltedState := by
  intro t s halted
  refine ⟨fun notReset r s' answered => ?_, fun r s' answered => ?_⟩
  case refine_2 =>
    cases answered
    rfl
  cases t with
  | reset => exact absurd rfl notReset
  | loadProgram bytes =>
    by_cases short : bytes.length ≤ 3584
    · cases (transactLive_loadProgram_short s short).symm.trans answered
      exact ⟨halted, rfl, rfl⟩
    · cases (transactLive_loadProgram_long s (Nat.not_le.1 short)).symm.trans answered
      exact ⟨halted, rfl, rfl⟩
  | step =>
    cases (transactLive_step_of_next (step_of_halt halted)).symm.trans answered
    exact ⟨halted, rfl, rfl⟩
  | setKey k p =>
    cases answered
    rw [s.setKey_frame k p]
    exact ⟨halted, rfl, rfl⟩
  | tickTimers | readFramebuffer | readProgramCounter | readSoundTimerActive =>
    cases answered
    exact ⟨halted, rfl, rfl⟩

/-! #### LoadProgram and the launch state -/

/-- The byte `j` of a block copied to `a`. -/
theorem Memory.read_copyIn_inside (m : Memory) (a : Nat) {bs : List Byte} {j : Nat} (h : j < bs.length) :
    (m.copyIn a bs).read (a + j) = bs.getD j 0#8 := by
  rw [Memory.read_copyIn, if_pos (by omega), Nat.add_sub_cancel_left]

theorem Memory.read_copyIn_outside (m : Memory) {a a' : Nat} {bs : List Byte} (h : ¬ (a ≤ a' ∧ a' < a + bs.length)) :
    (m.copyIn a bs).read a' = m.read a' := by
  rw [Memory.read_copyIn, if_neg h]

/-- Settles O56: the transaction is one copy into memory, read back byte by byte. -/
theorem loadProgramCopiesTheBytesOrChangesNothing : Obligations.LoadProgramCopiesTheBytesOrChangesNothing := by
  intro s bytes
  refine ⟨fun short => ⟨_, transactLive_loadProgram_short s short, fun j h => ?_, fun a outside => ?_, rfl⟩,
    transactLive_loadProgram_long s⟩
  · exact (Memory.read_copyIn_inside s.mem Config.entry h).trans (List.getD_eq_getElem _ _ h)
  · exact Memory.read_copyIn_outside s.mem outside

/-- Settles O57: the copy is made into the reset memory, which reads 0 everywhere. -/
theorem launchIsResetWithTheProgramInMemory : Obligations.LaunchIsResetWithTheProgramInMemory := by
  intro bytes short
  have loaded : launch bytes = .ok (State.reset.setMem (State.reset.mem.copyIn Config.entry bytes)) :=
    if_neg (Nat.not_lt.2 short)
  refine ⟨_, loaded, resetStateMeetsTheInvariant.loadProgram short, rfl, fun a => ?_⟩
  rw [State.setMem_mem, Memory.read_copyIn]
  rfl

/-- Settles O58: each port answers from its own field. -/
theorem readPortsChangeNothing : Obligations.ReadPortsChangeNothing := by
  intro s
  exact ⟨⟨s.fb, rfl, fun _ _ => rfl⟩, rfl, s.soundTimerActive, rfl, decide_eq_true_iff⟩

/-- The reset state whatever the draw counter: every read gives the value R200 names. -/
theorem atResetValues_setDraws (n : Nat) : AtResetValues (State.reset.setDraws n) := by
  refine ⟨fun r => ?_, rfl, rfl, rfl, fun k => ?_, rfl, rfl, Framebuffer.cell_clear, fun a h => if_pos h,
    fun k => ?_, rfl, rfl, rfl, rfl⟩
  all_goals exact Vector.getElem_replicate _

/-- Settles O59: Reset answers the reset state but for the draw counter. -/
theorem resetZeroesTheMachineFromAnywhere : Obligations.ResetZeroesTheMachineFromAnywhere := by
  refine ⟨atResetValues_setDraws 0, fun m => ?_, fun t notReset => ?_⟩
  · cases m with
    | none => exact ⟨_, rfl, atResetValues_setDraws 0⟩
    | some s => exact ⟨_, rfl, atResetValues_setDraws s.draws⟩
  · cases t with
    | reset => exact absurd rfl notReset
    | _ => rfl

end Sys2Proof.Machine

/-! ### Proofs: control transfer (spec/41_flow.md) -/

namespace Sys2Proof.Machine

/-- Settles O23: SYS is one write of DIAG. -/
theorem sysOnlySetsDiag : Obligations.SysOnlySetsDiag := by
  intro nnn s
  have regs : SameRegsBut [] s (s.setDiag true) := fun r _ => s.setDiag_reg true r
  exact ⟨_, rfl, rfl, rfl, rfl, rfl, rfl, regs, rfl, rfl, rfl, fun _ _ => rfl, fun _ _ => rfl, ⟨rfl, fun _ => rfl⟩,
    ⟨rfl, rfl⟩, fun _ => rfl⟩

/-! #### Skips (R104 to R107) -/

theorem State.skipPc_taken (s : State) {c : Bool} (h : c = true) : (s.skipPc c).toNat = (s.pc.toNat + 2) % 4096 := by
  rw [State.skipPc, if_pos h, wrap12_toNat]

theorem State.skipPc_not_taken (s : State) {c : Bool} (h : c = false) : s.skipPc c = s.pc := by
  rw [h]
  rfl

/-- Settles O26: each skip is one write of PC, with the condition of its name. -/
theorem skipsMovePcByTwoWhenTheirConditionHolds : Obligations.SkipsMovePcByTwoWhenTheirConditionHolds := by
  refine ⟨fun x nn s => ?_, fun x nn s => ?_, fun x y s => ?_, fun x y s => ?_⟩
  all_goals
    refine ⟨_, exec_of_errorOf_none rfl, s.setPc_onlyPcChanges _, fun h => s.skipPc_taken ?_,
      fun h => s.skipPc_not_taken ?_⟩ <;> simp [h]

/-! #### The call stack (R101, R103, R171, R172) -/

/-- The frame of a write of the stack and PC. -/
theorem State.setStack_setPc_onlyPcAndStackChange (s : State) (n : Fin 17) (v : Vector Word 16) (w : Word) :
    OnlyPcAndStackChange s ((s.setStack n v).setPc w) := by
  have regs : SameRegsBut [] s ((s.setStack n v).setPc w) := fun r _ => by rw [State.setPc_reg, State.setStack_reg]
  have status : SameStatus s ((s.setStack n v).setPc w) := ⟨rfl, rfl, rfl, rfl, rfl⟩
  exact ⟨regs, rfl, rfl, fun _ _ => rfl, fun _ _ => rfl, ⟨rfl, rfl⟩, fun _ => rfl, status⟩

/-- Settles O27: below the limit the error condition does not hold, and the push writes the entry at SP. -/
theorem callPushesAndJumps : Obligations.CallPushesAndJumps := by
  intro nnn s room
  have fine : s.errorOf (.call nnn) = none := if_neg (Nat.ne_of_lt room)
  refine ⟨_, exec_of_errorOf_none fine, ?sp, ?top, fun k other => ?rest, addrWord_toNat nnn,
    s.setStack_setPc_onlyPcAndStackChange _ _ _⟩
  case sp => exact Nat.mod_eq_of_lt (by omega)
  case top => exact Vector.getElem_setIfInBounds_self _
  case rest => exact Vector.getElem_setIfInBounds_ne _ other.symm

/-- Settles O28: with a live entry the error condition does not hold, and the pop reads the entry below SP. -/
theorem returnPopsIntoPc : Obligations.ReturnPopsIntoPc := by
  intro s k depth
  have fine : s.errorOf .ret = none := if_neg (by omega)
  have below : s.sp.val - 1 = k.val := by omega
  refine ⟨_, exec_of_errorOf_none fine, ?sp, ?pc, fun _ => rfl, s.setStack_setPc_onlyPcAndStackChange _ _ _⟩
  case sp =>
    show (s.sp.val - 1) % 17 = k.val
    omega
  case pc =>
    show s.stack[s.sp.val - 1]?.getD 0#16 = _
    rw [below, Vector.getElem?_eq_getElem k.isLt, Option.getD_some]

/-- Settles O29: at the limits the error conditions hold. -/
theorem callAndReturnRaiseAtTheLimits : Obligations.CallAndReturnRaiseAtTheLimits := by
  intro s
  exact ⟨fun full nnn => ⟨_, exec_of_errorOf_some (i := .call nnn) (if_pos full), s.setHalt_raisedIn _⟩,
    fun empty => ⟨_, exec_of_errorOf_some (i := .ret) (if_pos empty), s.setHalt_raisedIn _⟩⟩

theorem OnlyPcAndStackChange.trans {s t u : State} (h : OnlyPcAndStackChange s t) (h' : OnlyPcAndStackChange t u) :
    OnlyPcAndStackChange s u := by
  obtain ⟨regs, i, draws, bytes, cells, ⟨dt, st⟩, keys, wait, waitReg, halt, err, diag⟩ := h
  obtain ⟨regs', i', draws', bytes', cells', ⟨dt', st'⟩, keys', wait', waitReg', halt', err', diag'⟩ := h'
  exact ⟨fun r hr => (regs' r hr).trans (regs r hr), i'.trans i, draws'.trans draws,
    fun a ha => (bytes' a ha).trans (bytes a ha), fun x y => (cells' x y).trans (cells x y),
    ⟨dt'.trans dt, st'.trans st⟩, fun k => (keys' k).trans (keys k), wait'.trans wait, waitReg'.trans waitReg,
    halt'.trans halt, err'.trans err, diag'.trans diag⟩

/-- Settles O30: the return pops the entry that the call pushed. -/
theorem callThenReturnRestoresPc : Obligations.CallThenReturnRestoresPc := by
  intro nnn s room
  obtain ⟨t, called, depth, top, below, -, frame⟩ := callPushesAndJumps nnn s room
  obtain ⟨u, returned, depth', popped, entries, frame'⟩ := returnPopsIntoPc t ⟨s.sp.val, room⟩ depth
  exact ⟨t, u, called, returned, popped.trans top, Fin.ext depth',
    fun k live => (entries k).trans (below k (Nat.ne_of_lt live)), frame.trans frame'⟩

end Sys2Proof.Machine

/-! ### Proofs: arithmetic, shifts and random (spec/42_alu.md R126 to R133) -/

namespace Sys2Proof.Machine

/-- The frame of an instruction that writes a result and a flag. -/
theorem State.setFlagThenReg_onlyRegsChange (s : State) (f b : Byte) (x : Nibble) :
    OnlyRegsChange [x, vf] s (s.setFlagThenReg f x b) := by
  have regs : SameRegsBut [x, vf] s (s.setFlagThenReg f x b) := fun r hr => by
    obtain ⟨notResult, notFlag⟩ : r ≠ x ∧ r ≠ vf := by simpa using hr
    exact s.reg_setFlagThenReg_other f b notResult notFlag
  have status : SameStatus s (s.setFlagThenReg f x b) := ⟨rfl, rfl, rfl, rfl, rfl⟩
  exact ⟨regs, rfl, rfl, rfl, fun _ _ => rfl, fun _ _ => rfl, ⟨rfl, fun _ => rfl⟩, ⟨rfl, rfl⟩, fun _ => rfl, status⟩

/-- What every instruction with a result and a flag does, the two as numbers (R133). -/
theorem exec_flag_and_result {i : Instr} {s : State} {x : Nibble} {f b : Byte} {result flag : Nat}
    (fine : s.errorOf i = none) (effect : s.effect i = s.setFlagThenReg f x b) (hb : b.toNat = result) (hf : f.toNat = flag) :
    ∃ t, exec i s = .next t ∧ (t.reg x).toNat = result ∧ (x ≠ 0xF#4 → (t.reg 0xF#4).toNat = flag) ∧
      OnlyRegsChange [x, 0xF#4] s t := by
  refine ⟨_, exec_of_errorOf_none fine, ?_⟩
  rw [effect]
  refine ⟨?_, fun notFlag => ?_, s.setFlagThenReg_onlyRegsChange f b x⟩
  · rw [s.reg_setFlagThenReg_result f b x, hb]
  · rw [s.reg_setFlagThenReg_flag f b notFlag, hf]

theorem flagByte_toNat (c : Bool) : (flagByte c).toNat = c.toNat := by cases c <;> rfl

/-- A flag that tells of a condition. -/
theorem flagByte_decide_toNat (p : Prop) [Decidable p] : (flagByte (decide p)).toNat = if p then 1 else 0 := by
  by_cases h : p <;> simp [h, flagByte]

/-- A flag that is a bit of an operand. -/
theorem flagByte_bit_toNat (b : Byte) (k : Nat) : (flagByte (b.getLsbD k)).toNat = b.toNat / 2 ^ k % 2 := by
  rw [flagByte_toNat, BitVec.getLsbD, Nat.toNat_testBit]

/-- The difference of two bytes, modulo 256. -/
theorem byte_sub_toNat (a b : Byte) : (a - b).toNat = (a.toNat + 256 - b.toNat) % 256 := by
  have := b.isLt
  rw [BitVec.toNat_sub]
  omega

/-- Settles O35: the sum of two bytes is the sum modulo 256, and the carry is the flag of the true sum. -/
theorem addRegistersGivesSumAndCarry : Obligations.AddRegistersGivesSumAndCarry := fun _ _ _ =>
  exec_flag_and_result rfl rfl (BitVec.toNat_add _ _) (flagByte_decide_toNat _)

/-- Settles O36: both differences are taken modulo 256, with the comparison of the same operands as flag. -/
theorem subtractionsGiveDifferenceAndNoBorrow : Obligations.SubtractionsGiveDifferenceAndNoBorrow := by
  constructor
  · exact fun _ _ _ => exec_flag_and_result rfl rfl (byte_sub_toNat _ _) (flagByte_decide_toNat _)
  · exact fun _ _ _ => exec_flag_and_result rfl rfl (byte_sub_toNat _ _) (flagByte_decide_toNat _)

/-- Settles O37: the shifts halve and double, and the flags are bit 0 and bit 7 of the old value. -/
theorem shiftsGiveResultAndBitMovedOut : Obligations.ShiftsGiveResultAndBitMovedOut := by
  refine ⟨fun x y s => ?shr, fun x y s => ?shl⟩
  case shr =>
    have half : (s.reg x >>> 1).toNat = (s.reg x).toNat / 2 := by
      rw [BitVec.toNat_ushiftRight, Nat.shiftRight_eq_div_pow, pow_one]
    have bit : (lowBitFlag (s.reg x)).toNat = (s.reg x).toNat % 2 := by
      rw [lowBitFlag, flagByte_bit_toNat, pow_zero, Nat.div_one]
    exact exec_flag_and_result rfl rfl half bit
  case shl =>
    have double : (s.reg x <<< 1).toNat = (s.reg x).toNat * 2 % 256 := by
      rw [BitVec.toNat_shiftLeft, Nat.shiftLeft_eq, pow_one]
    have bit : (highBitFlag (s.reg x)).toNat = (s.reg x).toNat / 128 := by
      have := (s.reg x).isLt
      rw [highBitFlag, flagByte_bit_toNat]
      omega
    exact exec_flag_and_result rfl rfl double bit

/-- Settles O38: a bit of a conjunction is clear where it is clear in NN, whatever the free byte is. -/
theorem randomIsMaskedByTheImmediate : Obligations.RandomIsMaskedByTheImmediate := by
  intro x nn s
  have masked : (s.effect (.rnd x nn)).reg x = Config.randomByte s.draws &&& nn := State.reg_setReg_same _ x _
  have status : SameStatus s (s.effect (.rnd x nn)) := ⟨rfl, rfl, rfl, rfl, rfl⟩
  refine ⟨_, exec_of_errorOf_none rfl, masked, fun k clear => ?bits, rfl, fun r hr => ?regs, rfl, rfl, fun _ _ => rfl,
    fun _ _ => rfl, ⟨rfl, fun _ => rfl⟩, ⟨rfl, rfl⟩, fun _ => rfl, status⟩
  case bits => rw [masked, BitVec.getLsbD_and, clear, Bool.and_false]
  case regs => exact State.reg_setReg_ne _ x r _ (List.ne_of_not_mem_cons hr)

end Sys2Proof.Machine

/-! ### Proofs: keys (spec/45_keys_timers.md R160 to R162) -/

namespace Sys2Proof.Machine

theorem State.keyOf_above (s : State) {x : Nibble} (h : (s.reg x).toNat > 15) : s.keyOf x = none :=
  dif_neg (by omega)

theorem State.keyOf_of_toNat (s : State) {x : Nibble} {k : Fin 16} (h : (s.reg x).toNat = k.val) :
    s.keyOf x = some s.key[k.val] := by
  simp [State.keyOf, h]

/-- Settles O50: both skips read the one key that the register names, and none above 15. -/
theorem keySkipsFollowTheKeyState : Obligations.KeySkipsFollowTheKeyState := by
  intro x s
  refine ⟨_, _, exec_of_errorOf_none rfl, exec_of_errorOf_none rfl, s.setPc_onlyPcChanges _, s.setPc_onlyPcChanges _,
    fun above => ?above, fun k index => ⟨fun pressed => ?pressed, fun released => ?released⟩⟩
  case above =>
    have noKey := s.keyOf_above above
    exact ⟨s.skipPc_not_taken (by rw [noKey]; rfl), s.skipPc_not_taken (by rw [noKey]; rfl)⟩
  case pressed =>
    have key := (s.keyOf_of_toNat index).trans (congrArg some pressed)
    exact ⟨s.skipPc_taken (by rw [key]; rfl), s.skipPc_not_taken (by rw [key]; rfl)⟩
  case released =>
    have key := (s.keyOf_of_toNat index).trans (congrArg some released)
    exact ⟨s.skipPc_not_taken (by rw [key]; rfl), s.skipPc_taken (by rw [key]; rfl)⟩

/-- The whole next state of LD Vx, K (R162). -/
theorem exec_ldVxK_eq (x : Nibble) (s : State) : exec (.ldVxK x) s = .next (s.setWait true x) := rfl

/-- Settles O51: the wait instruction is one write of WAIT and WAITREG. -/
theorem keyWaitOnlySetsWaitAndWaitreg : Obligations.KeyWaitOnlySetsWaitAndWaitreg := by
  intro x s
  have regs : SameRegsBut [] s (s.setWait true x) := fun r _ => s.setWait_reg true x r
  exact ⟨_, exec_ldVxK_eq x s, rfl, rfl, rfl, rfl, rfl, regs, rfl, rfl, rfl, fun _ _ => rfl, fun _ _ => rfl,
    ⟨rfl, fun _ => rfl⟩, ⟨rfl, rfl⟩, fun _ => rfl⟩

/-- Settles O52: SetKey's cases of a release and of a press, in the waiting state. -/
theorem keyWaitEndsWithTheNextPress : Obligations.KeyWaitEndsWithTheNextPress := by
  intro x s k _ inRange
  refine ⟨_, exec_ldVxK_eq x s, step_of_wait rfl, ?_⟩
  rw [State.setKey_release _ inRange, State.setKey_press_waiting _ inRange rfl]
  refine ⟨rfl, fun _ _ => rfl, rfl, ?pressed, fun r hr => ?others, rfl⟩
  case pressed => rw [State.setWait_reg, State.setWait_waitReg, State.reg_setReg_same, keyByte_toNat inRange]
  case others =>
    rw [State.setWait_reg, State.setWait_waitReg, State.reg_setReg_ne _ x r _ (List.ne_of_not_mem_cons hr)]
    rfl

end Sys2Proof.Machine

/-! ### Proofs: memory (spec/20_memory.md R51, R52, spec/43_index_memory.md R143 to R145) -/

namespace Sys2Proof.Machine

/-- Settles O45: one check of the bound, then what a store does to every byte. -/
theorem memoryReadsGiveTheLastByteWritten : Obligations.MemoryReadsGiveTheLastByteWritten := by
  intro s a b
  refine ⟨fun inside => ⟨_, if_pos inside, ?same, fun a' other => ?other⟩,
    fun outside => ⟨if_neg (Nat.not_le.2 outside), if_neg (Nat.not_le.2 outside)⟩⟩
  case same => rw [State.memRead, if_pos inside, State.setMem_mem, Memory.read_write, if_pos rfl]
  case other => simp only [State.memRead, State.setMem_mem, Memory.read_write, if_neg other]

/-! #### The canonical form -/

/-- An address below every listed one is not listed. -/
theorem Memory.read_of_lt_all {m : Memory} {a : Nat} (h : ∀ c ∈ m, a < c.1) : m.read a = Memory.unlisted := by
  induction m with
  | nil => rfl
  | cons c m ih =>
    obtain ⟨first, rest⟩ := List.forall_mem_cons.1 h
    rw [Memory.read_cons, if_neg (Nat.ne_of_gt first)]
    exact ih rest

theorem Memory.read_head (k : Nat) (c : Byte) (m : Memory) : Memory.read ((k, c) :: m) k = c := if_pos rfl

theorem Memory.wf_cons {k : Nat} {c : Byte} {m : Memory} (h : Memory.wf ((k, c) :: m)) :
    c ≠ Memory.unlisted ∧ (∀ d ∈ m, k < d.1) ∧ m.wf := by
  obtain ⟨sorted, listed⟩ := h
  obtain ⟨first, rest⟩ := List.pairwise_cons.1 sorted
  obtain ⟨head, tail⟩ := List.forall_mem_cons.1 listed
  exact ⟨head, first, rest, tail⟩

/-- The first address of a memory in canonical form is listed by any memory that reads the same. -/
theorem Memory.not_lt_all_of_read_eq {k : Nat} {c : Byte} {m m' : Memory} (listed : c ≠ Memory.unlisted)
    (same : ∀ a, Memory.read ((k, c) :: m) a = m'.read a) : ¬ ∀ d ∈ m', k < d.1 := fun below =>
  listed ((Memory.read_head k c m).symm.trans ((same k).trans (Memory.read_of_lt_all below)))

/-- Settles O46, by induction on the lists: their first addresses agree, so their first bytes and their tails do. -/
theorem canonicalMemoriesWithEqualBytesAreEqual : Obligations.CanonicalMemoriesWithEqualBytesAreEqual := by
  intro m
  induction m with
  | nil =>
    rintro (_ | ⟨⟨k, c⟩, m'⟩) - wf same
    · rfl
    · obtain ⟨listed, -⟩ := Memory.wf_cons wf
      exact absurd (List.forall_mem_nil _) (Memory.not_lt_all_of_read_eq listed fun a => (same a).symm)
  | cons e m ih =>
    obtain ⟨k, c⟩ := e
    rintro (_ | ⟨⟨k', c'⟩, m'⟩) wf wf' same
    · obtain ⟨listed, -⟩ := Memory.wf_cons wf
      exact absurd (List.forall_mem_nil _) (Memory.not_lt_all_of_read_eq listed same)
    · obtain ⟨listed, above, wfTail⟩ := Memory.wf_cons wf
      obtain ⟨listed', above', wfTail'⟩ := Memory.wf_cons wf'
      have notBelow : ¬ k < k' := fun lt => Memory.not_lt_all_of_read_eq listed same
        (List.forall_mem_cons.2 ⟨lt, fun d hd => lt.trans (above' d hd)⟩)
      have notAbove : ¬ k' < k := fun lt => Memory.not_lt_all_of_read_eq listed' (fun a => (same a).symm)
        (List.forall_mem_cons.2 ⟨lt, fun d hd => lt.trans (above d hd)⟩)
      obtain rfl : k = k' := by omega
      obtain rfl : c = c' := by simpa only [Memory.read_head] using same k
      have tails : ∀ a, Memory.read m a = Memory.read m' a := fun a => by
        by_cases h : k = a
        · subst h
          rw [Memory.read_of_lt_all above, Memory.read_of_lt_all above']
        · simpa only [Memory.read_cons, if_neg h] using same a
      rw [ih m' wfTail wfTail' tails]

/-! #### Transfers between registers and memory -/

/-- The frame of a write of memory and I, where the bytes outside `A` are kept. -/
theorem State.setMem_setI_onlyIAndBytesChange {s : State} {m : Memory} {A : Nat → Prop} (w : Word)
    (bytes : ∀ a, ¬ A a → m.read a = s.mem.read a) : OnlyIAndBytesChange A s ((s.setMem m).setI w) := by
  have regs : SameRegsBut [] s ((s.setMem m).setI w) := fun r _ => by rw [State.setI_reg, State.setMem_reg]
  have status : SameStatus s ((s.setMem m).setI w) := ⟨rfl, rfl, rfl, rfl, rfl⟩
  exact ⟨regs, rfl, rfl, bytes, fun _ _ => rfl, ⟨rfl, fun _ => rfl⟩, ⟨rfl, rfl⟩, fun _ => rfl, status⟩

/-- Settles O40: the three digits are copied to I, I + 1 and I + 2, and each fits its byte. -/
theorem bcdStoresThreeDigits : Obligations.BcdStoresThreeDigits := by
  intro x s inside
  have fine : s.errorOf (.ldB x) = none := if_neg (Nat.not_lt.2 inside)
  have digit : ∀ j < 3, (s.effect (.ldB x)).mem.read (s.i.toNat + j) = (bcdDigits (s.reg x)).getD j 0#8 := fun j h =>
    Memory.read_copyIn_inside s.mem s.i.toNat h
  have others : ∀ a, ¬ (s.i.toNat ≤ a ∧ a ≤ s.i.toNat + 2) → (s.effect (.ldB x)).mem.read a = s.mem.read a :=
    fun a outside => Memory.read_copyIn_outside s.mem fun covered => outside ⟨covered.1, Nat.le_of_lt_succ covered.2⟩
  have bound := (s.reg x).isLt
  refine ⟨_, exec_of_errorOf_none fine, ?hundreds, ?tens, ?units, rfl, State.setMem_setI_onlyIAndBytesChange s.i others⟩
  case hundreds =>
    rw [← Nat.add_zero s.i.toNat, digit 0 (by decide)]
    exact Nat.mod_eq_of_lt (by omega)
  case tens =>
    rw [digit 1 (by decide)]
    exact Nat.mod_eq_of_lt (by omega)
  case units =>
    rw [digit 2 (by decide)]
    exact Nat.mod_eq_of_lt (by omega)

/-- Settles O41: V0 to VX are copied to I on, and I is advanced past them. -/
theorem registerDumpStoresV0ToVx : Obligations.RegisterDumpStoresV0ToVx := by
  intro x s inside
  have fine : s.errorOf (.ldMemVx x) = none := if_neg (Nat.not_lt.2 inside)
  have len := s.regsUpTo_length x
  have others : ∀ a, ¬ (s.i.toNat ≤ a ∧ a ≤ s.i.toNat + x.toNat) → (s.effect (.ldMemVx x)).mem.read a = s.mem.read a :=
    fun a outside => Memory.read_copyIn_outside s.mem (by omega)
  refine ⟨_, exec_of_errorOf_none fine, fun r h => ?stored, wrap12_toNat _, State.setMem_setI_onlyIAndBytesChange _ others⟩
  case stored => exact (Memory.read_copyIn_inside s.mem s.i.toNat (by omega)).trans (s.regsUpTo_getD x r h)

/-- Settles O42: the load covers V0 to VX, and I is advanced past their bytes. -/
theorem registerLoadFillsV0ToVx : Obligations.RegisterLoadFillsV0ToVx := by
  intro x s inside
  have fine : s.errorOf (.ldVxMem x) = none := if_neg (Nat.not_lt.2 inside)
  have status : SameStatus s (s.effect (.ldVxMem x)) := ⟨rfl, rfl, rfl, rfl, rfl⟩
  exact ⟨_, exec_of_errorOf_none fine, fun r h => (s.reg_effect_ldVxMem x r).trans (if_pos h),
    fun r h => (s.reg_effect_ldVxMem x r).trans (if_neg (Nat.not_le.2 h)), wrap12_toNat _, rfl, rfl, fun _ _ => rfl,
    fun _ _ => rfl, ⟨rfl, fun _ => rfl⟩, ⟨rfl, rfl⟩, fun _ => rfl, status⟩

/-- Settles O44: the load reads from the base what the dump stored there. -/
theorem dumpThenLoadRestoresTheRegisters : Obligations.DumpThenLoadRestoresTheRegisters := by
  intro x s v inside
  obtain ⟨t, dumped, stored, -⟩ := registerDumpStoresV0ToVx x s inside
  obtain ⟨u, loaded, filled, -⟩ := registerLoadFillsV0ToVx x { t with v := v, i := s.i } inside
  exact ⟨t, u, dumped, loaded, fun r h => (filled r h).trans (stored r h)⟩

/-- Settles O43: the bound is the error condition of each of the four, and a raise is all that happens. -/
theorem outOfBoundsRaisesBeforeAnyWrite : Obligations.OutOfBoundsRaisesBeforeAnyWrite := by
  intro s
  have raises : ∀ i, s.errorOf i = some .outOfBoundsAddress → ∃ t, exec i s = .next t ∧ RaisedIn .outOfBoundsAddress s t :=
    fun _ raised => ⟨_, exec_of_errorOf_some raised, s.setHalt_raisedIn _⟩
  exact ⟨fun outside x => raises (.ldB x) (if_pos outside),
    fun x outside => ⟨raises (.ldMemVx x) (if_pos outside), raises (.ldVxMem x) (if_pos outside)⟩,
    fun n tall outside x y => raises (.drw x y n) (if_pos ⟨tall, outside⟩)⟩

end Sys2Proof.Machine

/-! ### Proofs: drawing (spec/44_display.md R151, R152) -/

namespace Sys2Proof.Machine

/-- The cells that the drawing covers are those of the statements, read from memory. -/
theorem coveredBy_iff_spriteCovers (s : State) (x y n : Nibble) (cx : Fin 64) (cy : Fin 32) :
    CoveredBy (spriteRows s n) (s.reg x).toNat (s.reg y).toNat cx cy ↔ SpriteCovers s x y n cx cy := by
  have len : (spriteRows s n).length = n.toNat := by rw [spriteRows, List.length_map, List.length_range]
  have row : ∀ k < n.toNat, (spriteRows s n).getD k 0#8 = s.mem.read (s.i.toNat + k) := fun k h => by
    simp [spriteRows, h]
  unfold CoveredBy SpriteCovers ColumnAt
  rw [len]
  refine exists_congr fun k => and_congr_right fun h => ?_
  rw [row k h]
  simp only [and_assoc]

/-- Settles O48: the drawing's own rule, with the coordinates read before VF is written. -/
theorem drawFlipsExactlyTheCoveredCells : Obligations.DrawFlipsExactlyTheCoveredCells := by
  intro x y n s inside
  have fine : s.errorOf (.drw x y n) = none := if_neg (by omega)
  have short : (spriteRows s n).length ≤ 32 := by
    have := n.isLt
    rw [spriteRows, List.length_map, List.length_range]
    omega
  obtain ⟨flipped, kept, collided⟩ := drawRows_spec (spriteRows s n) (s.reg x).toNat (s.reg y).toNat short (s.fb, false)
  simp only [coveredBy_iff_spriteCovers] at flipped kept collided
  have flag : (s.effect (.drw x y n)).reg vf = flagByte _ := State.reg_setReg_same _ vf _
  have status : SameStatus s (s.effect (.drw x y n)) := ⟨rfl, rfl, rfl, rfl, rfl⟩
  refine ⟨_, exec_of_errorOf_none fine, flipped, kept, fun on => ?collision, fun off => ?noCollision,
    fun r hr => ?regs, rfl, rfl, rfl, fun _ _ => rfl, ⟨rfl, fun _ => rfl⟩, ⟨rfl, rfl⟩, fun _ => rfl, status⟩
  case collision =>
    rw [flag, collided.2 (.inr on)]
    rfl
  case noCollision =>
    have noHit : ¬ (drawRows (spriteRows s n) (s.reg x).toNat (s.reg y).toNat (s.fb, false)).2 = true := fun h => by
      obtain impossible | ⟨cx, cy, covered, on⟩ := collided.1 h
      · cases impossible
      · cases (off cx cy covered).symm.trans on
    rw [flag, Bool.eq_false_of_not_eq_true noHit]
    rfl
  case regs => exact State.reg_setReg_ne _ vf r _ (List.ne_of_not_mem_cons hr)

/-- Settles O49: the first drawing keeps what the second reads, so both cover the same cells and flip them twice. -/
theorem drawingTwiceRestoresTheFramebuffer : Obligations.DrawingTwiceRestoresTheFramebuffer := by
  intro x y n s notX notY inside
  obtain ⟨t, drawn, flipped, kept, -, -, regs, i, -, -, bytes, -⟩ := drawFlipsExactlyTheCoveredCells x y n s inside
  obtain ⟨u, drawnAgain, flippedAgain, keptAgain, -⟩ := drawFlipsExactlyTheCoveredCells x y n t (i ▸ inside)
  have regX : t.reg x = s.reg x := regs x (by simpa using notX)
  have regY : t.reg y = s.reg y := regs y (by simpa using notY)
  have sameSprite : ∀ cx cy, SpriteCovers t x y n cx cy ↔ SpriteCovers s x y n cx cy := fun cx cy => by
    have read : ∀ a, t.mem.read a = s.mem.read a := fun a => bytes a not_false
    simp only [SpriteCovers, regX, regY, i, read]
  refine ⟨t, u, drawn, drawnAgain, fun cx cy => ?_⟩
  by_cases covered : SpriteCovers s x y n cx cy
  · rw [flippedAgain cx cy ((sameSprite cx cy).2 covered), flipped cx cy covered, Bool.not_not]
  · rw [keptAgain cx cy (mt (sameSprite cx cy).1 covered), kept cx cy covered]

end Sys2Proof.Machine
